-- ==== Sys2Proof/Word.lean ====
section
/-! DEFINITION. The words of the machine (00_scope.md R5, R7): bytes, 16-bit words, 12-bit address operands
and register numbers. -/

namespace Sys2Proof

/-- A byte: a memory cell, a general register, a timer, an immediate `NN` (R5). -/
abbrev Byte := BitVec 8

/-- A 16-bit word: an instruction, `I`, `PC`, a call-stack entry (R5). -/
abbrev Word := BitVec 16

/-- The 12-bit address operand `NNN` (R11). -/
abbrev Addr := BitVec 12

/-- A register number 0 to 15 (R21). -/
abbrev Reg := Fin 16

end Sys2Proof
end

