-- ==== Sys2Proof/Machine/Flags.lean ====
section
/-! DEFINITION. The values that the flag register takes (42_alu.md R147 to R151, R153, 43_index_memory.md R171): carry,
not borrow, bit shifted out, index above 0xFFF, collision. -/

namespace Sys2Proof.Machine

/-- A flag as the byte written into `VF`: 1 or 0. -/
def flagByte (c : Bool) : Byte := if c then 1 else 0

/-- The sum overflows 8 bits (R147). -/
def carryOfAdd (a b : Byte) : Bool := decide (a.toNat + b.toNat > 255)

/-- No borrow occurs in `a - b`: `a >= b` (R148, R149). -/
def noBorrow (a b : Byte) : Bool := decide (a.toNat ≥ b.toNat)

/-- The bit a right shift by 1 shifts out: bit 0 (R150). -/
def bitOutRight (a : Byte) : Bool := a.getLsbD 0

/-- The bit a left shift by 1 shifts out: bit 7 (R151). -/
def bitOutLeft (a : Byte) : Bool := a.getLsbD 7

/-- The full sum `I + V[X]`, before any truncation, exceeds 0xFFF (R171).
UNVERIFIED (notes/assumptions/12.md): the spec's decision D28; unsafe where the sum reaches 0x10000. -/
def indexOverflow (i : Word) (a : Byte) : Bool := decide (i.toNat + a.toNat > 0xFFF)

end Sys2Proof.Machine
end

