-- ==== Sys2Proof/Machine/OpcodeTable.lean ====
section
/-! DEFINITION. The opcode table as data (30_encoding.md R73): one row per named instruction, with the mask of its
fixed bits and the value they have. UNKNOWN is every word that no row takes (R74). -/

namespace Sys2Proof

/-- One row of the table: the word is the row's when its bits under `mask` equal `pattern`. -/
structure OpcodeRow where
  mnemonic : String
  mask : Word
  pattern : Word
  deriving DecidableEq, Repr

/-- Families 0 to 7 (R73). -/
def opcodeRowsLow : List OpcodeRow := [
  ⟨"CLS", 0xFFFF#16, 0x00E0#16⟩,
  ⟨"RET", 0xFFFF#16, 0x00EE#16⟩,
  ⟨"JP_NNN", 0xF000#16, 0x1000#16⟩,
  ⟨"CALL_NNN", 0xF000#16, 0x2000#16⟩,
  ⟨"SE_Vx__NN", 0xF000#16, 0x3000#16⟩,
  ⟨"SNE_Vx__NN", 0xF000#16, 0x4000#16⟩,
  ⟨"SE_Vx__Vy", 0xF00F#16, 0x5000#16⟩,
  ⟨"LD_Vx__NN", 0xF000#16, 0x6000#16⟩,
  ⟨"ADD_Vx__NN", 0xF000#16, 0x7000#16⟩]

/-- Families 8 to D (R73). -/
def opcodeRowsMid : List OpcodeRow := [
  ⟨"LD_Vx__Vy", 0xF00F#16, 0x8000#16⟩,
  ⟨"OR_Vx__Vy", 0xF00F#16, 0x8001#16⟩,
  ⟨"AND_Vx__Vy", 0xF00F#16, 0x8002#16⟩,
  ⟨"XOR_Vx__Vy", 0xF00F#16, 0x8003#16⟩,
  ⟨"ADD_Vx__Vy", 0xF00F#16, 0x8004#16⟩,
  ⟨"SUB_Vx__Vy", 0xF00F#16, 0x8005#16⟩,
  ⟨"SHR_Vx____Vy", 0xF00F#16, 0x8006#16⟩,
  ⟨"SUBN_Vx__Vy", 0xF00F#16, 0x8007#16⟩,
  ⟨"SHL_Vx____Vy", 0xF00F#16, 0x800E#16⟩,
  ⟨"SNE_Vx__Vy", 0xF00F#16, 0x9000#16⟩,
  ⟨"LD_I__NNN", 0xF000#16, 0xA000#16⟩,
  ⟨"JP_V0__NNN", 0xF000#16, 0xB000#16⟩,
  ⟨"RND_Vx__NN", 0xF000#16, 0xC000#16⟩,
  ⟨"DRW_Vx__Vy__N", 0xF000#16, 0xD000#16⟩]

/-- Families E and F (R73). -/
def opcodeRowsHigh : List OpcodeRow := [
  ⟨"SKP_Vx", 0xF0FF#16, 0xE09E#16⟩,
  ⟨"SKNP_Vx", 0xF0FF#16, 0xE0A1#16⟩,
  ⟨"LD_Vx__DT", 0xF0FF#16, 0xF007#16⟩,
  ⟨"LD_Vx__K", 0xF0FF#16, 0xF00A#16⟩,
  ⟨"LD_DT__Vx", 0xF0FF#16, 0xF015#16⟩,
  ⟨"LD_ST__Vx", 0xF0FF#16, 0xF018#16⟩,
  ⟨"ADD_I__Vx", 0xF0FF#16, 0xF01E#16⟩,
  ⟨"LD_F__Vx", 0xF0FF#16, 0xF029#16⟩,
  ⟨"LD_B__Vx", 0xF0FF#16, 0xF033#16⟩,
  ⟨"LD__I___Vx", 0xF0FF#16, 0xF055#16⟩,
  ⟨"LD_Vx___I", 0xF0FF#16, 0xF065#16⟩]

/-- The 34 named rows. UNVERIFIED (notes/assumptions/11.md): the spec shows only 6XNN and ANNN from its source and
takes the other patterns from general knowledge (R73, D22); unsafe where the hardware differs. -/
def opcodeRows : List OpcodeRow := opcodeRowsLow ++ opcodeRowsMid ++ opcodeRowsHigh

/-- The row takes the word. -/
def OpcodeRow.takes (r : OpcodeRow) (w : Word) : Bool := w &&& r.mask == r.pattern

end Sys2Proof
end

