-- ==== Sys2Proof/Syntax.lean ====
section
/-! DEFINITION. The instructions (30_encoding.md R73): one constructor per row of the opcode table, with the
operand fields of 00_scope.md R11. -/

namespace Sys2Proof

/-- The 34 instructions and UNKNOWN. `x` and `y` are register numbers, `n` the sprite height, `nn` an immediate
byte, `nnn` an address operand; nothing is sign-extended, scaled or shifted (R72). -/
inductive Instr where
  | cls                            -- 00E0, R190
  | ret                            -- 00EE, R120
  | jp (nnn : Addr)                -- 1NNN, R121
  | call (nnn : Addr)              -- 2NNN, R122
  | seImm (x : Reg) (nn : Byte)    -- 3XNN, R123
  | sneImm (x : Reg) (nn : Byte)   -- 4XNN, R124
  | seReg (x y : Reg)              -- 5XY0, R125
  | ldImm (x : Reg) (nn : Byte)    -- 6XNN, R141
  | addImm (x : Reg) (nn : Byte)   -- 7XNN, R142
  | ldReg (x y : Reg)              -- 8XY0, R143
  | orReg (x y : Reg)              -- 8XY1, R144
  | andReg (x y : Reg)             -- 8XY2, R145
  | xorReg (x y : Reg)             -- 8XY3, R146
  | addReg (x y : Reg)             -- 8XY4, R147
  | subReg (x y : Reg)             -- 8XY5, R148
  | shr (x y : Reg)                -- 8XY6, R150 (`y` is in the word and ignored)
  | subnReg (x y : Reg)            -- 8XY7, R149
  | shl (x y : Reg)                -- 8XYE, R151 (`y` is in the word and ignored)
  | sneReg (x y : Reg)             -- 9XY0, R126
  | ldI (nnn : Addr)               -- ANNN, R170
  | jpV0 (nnn : Addr)              -- BNNN, R127
  | rnd (x : Reg) (nn : Byte)      -- CXNN, R152
  | drw (x y : Reg) (n : Fin 16)   -- DXYN, R191
  | skp (x : Reg)                  -- EX9E, R210
  | sknp (x : Reg)                 -- EXA1, R211
  | ldVxDT (x : Reg)               -- FX07, R212
  | ldVxK (x : Reg)                -- FX0A, R213
  | ldDTVx (x : Reg)               -- FX15, R214
  | ldSTVx (x : Reg)               -- FX18, R215
  | addIVx (x : Reg)               -- FX1E, R171
  | ldFVx (x : Reg)                -- FX29, R172
  | ldBVx (x : Reg)                -- FX33, R173
  | ldMemVx (x : Reg)              -- FX55, R174
  | ldVxMem (x : Reg)              -- FX65, R175
  | unknown (word : Word)          -- every other word, R106
  deriving DecidableEq, Repr

end Sys2Proof
end

