-- ==== Sys2Proof/WellFormed.lean ====
section
/-! DEFINITION. Which terms of `Instr` are instructions of this hardware (30_encoding.md R73, R74). The operand
fields are bounded by their types; the one further check is that UNKNOWN stands only for a word that no row of
the table takes. -/

namespace Sys2Proof

/-- No row of the opcode table takes the word: it is UNKNOWN (R74). -/
def isUnknownWord (w : Word) : Bool := !opcodeRows.any (fun r => r.takes w)

/-- A term of `Instr` that the decoder can answer. -/
def Instr.wellFormed : Instr → Bool
  | .unknown w => isUnknownWord w
  | .cls | .ret | .jp _ | .call _ | .seImm _ _ | .sneImm _ _ | .seReg _ _ | .ldImm _ _ | .addImm _ _
  | .ldReg _ _ | .orReg _ _ | .andReg _ _ | .xorReg _ _ | .addReg _ _ | .subReg _ _ | .shr _ _ | .subnReg _ _
  | .shl _ _ | .sneReg _ _ | .ldI _ | .jpV0 _ | .rnd _ _ | .drw _ _ _ | .skp _ | .sknp _ | .ldVxDT _ | .ldVxK _
  | .ldDTVx _ | .ldSTVx _ | .addIVx _ | .ldFVx _ | .ldBVx _ | .ldMemVx _ | .ldVxMem _ => true

end Sys2Proof
end

