-- ==== Sys2Proof/Decode.lean ====
section
/-! DEFINITION. Decoding (30_encoding.md R70 to R75, 40_engine_cycle.md R102) and encoding. The decoder of words is
total: every word selects exactly one row, possibly UNKNOWN. The decoder of bytes refuses, by name, only a
sequence shorter than one instruction. -/

namespace Sys2Proof

/-! ### The fields of a word (00_scope.md R11, 30_encoding.md R71) -/

/-- The family `w[15:12]`. -/
def familyField (w : Word) : Nat := (w.extractLsb' 12 4).toNat

/-- `X = w[11:8]` (90_conflicts.md C1). -/
def xField (w : Word) : Reg := (w.extractLsb' 8 4).toFin

/-- `Y = w[7:4]` (90_conflicts.md C1). -/
def yField (w : Word) : Reg := (w.extractLsb' 4 4).toFin

/-- `N = w[3:0]`. -/
def nField (w : Word) : Fin 16 := (w.extractLsb' 0 4).toFin

/-- `NN = w[7:0]`. -/
def nnField (w : Word) : Byte := w.extractLsb' 0 8

/-- `NNN = w[11:0]`. -/
def nnnField (w : Word) : Addr := w.extractLsb' 0 12

/-! ### The decoder (R73) -/

/-- Family 8: the low nibble selects the operation. -/
def decodeFamily8 (w : Word) : Instr :=
  match (nField w).val with
  | 0x0 => .ldReg (xField w) (yField w)
  | 0x1 => .orReg (xField w) (yField w)
  | 0x2 => .andReg (xField w) (yField w)
  | 0x3 => .xorReg (xField w) (yField w)
  | 0x4 => .addReg (xField w) (yField w)
  | 0x5 => .subReg (xField w) (yField w)
  | 0x6 => .shr (xField w) (yField w)
  | 0x7 => .subnReg (xField w) (yField w)
  | 0xE => .shl (xField w) (yField w)
  | _ => .unknown w

/-- Family E: the low byte selects the operation. -/
def decodeFamilyE (w : Word) : Instr :=
  match (nnField w).toNat with
  | 0x9E => .skp (xField w)
  | 0xA1 => .sknp (xField w)
  | _ => .unknown w

/-- Family F: the low byte selects the operation. -/
def decodeFamilyF (w : Word) : Instr :=
  match (nnField w).toNat with
  | 0x07 => .ldVxDT (xField w)
  | 0x0A => .ldVxK (xField w)
  | 0x15 => .ldDTVx (xField w)
  | 0x18 => .ldSTVx (xField w)
  | 0x1E => .addIVx (xField w)
  | 0x29 => .ldFVx (xField w)
  | 0x33 => .ldBVx (xField w)
  | 0x55 => .ldMemVx (xField w)
  | 0x65 => .ldVxMem (xField w)
  | _ => .unknown w

/-- The decode table R73: the family first, then the sub-field, strictly (R75). A family is at most 0xF, so the
last arm is never taken. -/
def decodeWord (w : Word) : Instr :=
  match familyField w with
  | 0x0 => if w = 0x00E0#16 then .cls else if w = 0x00EE#16 then .ret else .unknown w
  | 0x1 => .jp (nnnField w)
  | 0x2 => .call (nnnField w)
  | 0x3 => .seImm (xField w) (nnField w)
  | 0x4 => .sneImm (xField w) (nnField w)
  | 0x5 => if nField w = 0 then .seReg (xField w) (yField w) else .unknown w
  | 0x6 => .ldImm (xField w) (nnField w)
  | 0x7 => .addImm (xField w) (nnField w)
  | 0x8 => decodeFamily8 w
  | 0x9 => if nField w = 0 then .sneReg (xField w) (yField w) else .unknown w
  | 0xA => .ldI (nnnField w)
  | 0xB => .jpV0 (nnnField w)
  | 0xC => .rnd (xField w) (nnField w)
  | 0xD => .drw (xField w) (yField w) (nField w)
  | 0xE => decodeFamilyE w
  | 0xF => decodeFamilyF w
  | _ => .unknown w

/-- Why a byte sequence is not an instruction: it is shorter than one (R70, "Every instruction is one 16-bit
word occupying two consecutive bytes"). -/
inductive DecodeError where
  | fewerThanTwoBytes
  deriving DecidableEq, Repr

/-- The word of two bytes, the first the more significant (R51). -/
def wordOfBytes (hi lo : Byte) : Word := hi ++ lo

/-- Decode the instruction at the head of a byte sequence and give the bytes that follow it. -/
def decode : List Byte → Except DecodeError (Instr × List Byte)
  | hi :: lo :: rest => .ok (decodeWord (wordOfBytes hi lo), rest)
  | _ => .error .fewerThanTwoBytes

/-! ### The encoder, from the same patterns (R71, R73) -/

/-- The pattern `FNNN`: a family and an address. -/
def wordNNN (f : BitVec 4) (nnn : Addr) : Word := f ++ nnn

/-- The pattern `FXNN`: a family, a register and a byte. -/
def wordXNN (f : BitVec 4) (x : Reg) (nn : Byte) : Word := f ++ BitVec.ofFin (w := 4) x ++ nn

/-- The pattern `FXYN`: a family, two registers and a nibble. -/
def wordXYN (f : BitVec 4) (x y : Reg) (n : Fin 16) : Word :=
  f ++ BitVec.ofFin (w := 4) x ++ BitVec.ofFin (w := 4) y ++ BitVec.ofFin (w := 4) n

/-- The word of an instruction (R73). -/
def encode : Instr → Word
  | .cls => 0x00E0#16
  | .ret => 0x00EE#16
  | .jp nnn => wordNNN 0x1#4 nnn
  | .call nnn => wordNNN 0x2#4 nnn
  | .seImm x nn => wordXNN 0x3#4 x nn
  | .sneImm x nn => wordXNN 0x4#4 x nn
  | .seReg x y => wordXYN 0x5#4 x y 0x0
  | .ldImm x nn => wordXNN 0x6#4 x nn
  | .addImm x nn => wordXNN 0x7#4 x nn
  | .ldReg x y => wordXYN 0x8#4 x y 0x0
  | .orReg x y => wordXYN 0x8#4 x y 0x1
  | .andReg x y => wordXYN 0x8#4 x y 0x2
  | .xorReg x y => wordXYN 0x8#4 x y 0x3
  | .addReg x y => wordXYN 0x8#4 x y 0x4
  | .subReg x y => wordXYN 0x8#4 x y 0x5
  | .shr x y => wordXYN 0x8#4 x y 0x6
  | .subnReg x y => wordXYN 0x8#4 x y 0x7
  | .shl x y => wordXYN 0x8#4 x y 0xE
  | .sneReg x y => wordXYN 0x9#4 x y 0x0
  | .ldI nnn => wordNNN 0xA#4 nnn
  | .jpV0 nnn => wordNNN 0xB#4 nnn
  | .rnd x nn => wordXNN 0xC#4 x nn
  | .drw x y n => wordXYN 0xD#4 x y n
  | .skp x => wordXNN 0xE#4 x 0x9E#8
  | .sknp x => wordXNN 0xE#4 x 0xA1#8
  | .ldVxDT x => wordXNN 0xF#4 x 0x07#8
  | .ldVxK x => wordXNN 0xF#4 x 0x0A#8
  | .ldDTVx x => wordXNN 0xF#4 x 0x15#8
  | .ldSTVx x => wordXNN 0xF#4 x 0x18#8
  | .addIVx x => wordXNN 0xF#4 x 0x1E#8
  | .ldFVx x => wordXNN 0xF#4 x 0x29#8
  | .ldBVx x => wordXNN 0xF#4 x 0x33#8
  | .ldMemVx x => wordXNN 0xF#4 x 0x55#8
  | .ldVxMem x => wordXNN 0xF#4 x 0x65#8
  | .unknown w => w

/-- The more significant byte of a word, the one at the lower address (R51). -/
def highByte (w : Word) : Byte := w.extractLsb' 8 8

/-- The less significant byte of a word, the one at the higher address (R51). -/
def lowByte (w : Word) : Byte := w.extractLsb' 0 8

/-- The two bytes of a word as memory holds them, the more significant first (R51). -/
def bytesOfWord (w : Word) : List Byte := [highByte w, lowByte w]

/-- The bytes of an instruction as memory holds them. -/
def encodeBytes (i : Instr) : List Byte := bytesOfWord (encode i)

/-! ### The host's numbering of a table row's bits -/

/-- The word of a table row: the row's `nbits` bits, every bit above them 0. -/
def tableWord (nbits w : Nat) : Word := BitVec.ofNat 16 (w % 2 ^ nbits)

/-- The instruction the decoder reads from a table row's bits, laid out as memory holds them; none for a row
longer than an instruction, which this hardware has not (R70). -/
def decodeTableWord (nbits w : Nat) : Option Instr :=
  if nbits ≤ 16 then
    match decode (bytesOfWord (tableWord nbits w)) with
    | .ok (i, _) => some i
    | .error _ => none
  else none

end Sys2Proof
end

