-- ==== Sys2Proof/Config.lean ====
section
/-! DEFINITION. What is fixed for the machine (00_scope.md R5) and the one value the spec leaves free (R6). -/

namespace Sys2Proof

/-- The size of memory in bytes (R5, R20). -/
abbrev Config.memorySize : Nat := 4096

/-- The start of the program region, the reset `PC` and the target of `load` (R5, R24, R58). -/
abbrev Config.programBase : Nat := 0x200

/-- The longest byte sequence `load` accepts (R5, R272). -/
abbrev Config.maxRomLength : Nat := 3584

/-- `RND` (R6, R32, R152): the free random byte of the n-th draw.
DESIGN CHOICE (notes/assumptions/2.md), safe: it has no body, so nothing is known of any draw. -/
opaque Config.rndByte : Nat → Byte

end Sys2Proof
end

