-- ==== Sys2Proof/Machine/Glyphs.lean ====
section
/-! DEFINITION. The default of the parameter `GLYPHS` (00_scope.md R6, 10_state.md R27).
PRESUMED (notes/assumptions/1.md), unsafe for a claim about glyph pixels: the spec takes these bytes from general
knowledge. The memory carries `GLYPHS` as data, so a statement over all states holds for every glyph table. -/

namespace Sys2Proof.Machine

/-- The glyphs of the digits 0 to 7, five bytes each, from the top row (R27). -/
def glyphBytesLow : List Byte :=
  [0xF0, 0x90, 0x90, 0x90, 0xF0] ++ [0x20, 0x60, 0x20, 0x20, 0x70] ++
  [0xF0, 0x10, 0xF0, 0x80, 0xF0] ++ [0xF0, 0x10, 0xF0, 0x10, 0xF0] ++
  [0x90, 0x90, 0xF0, 0x10, 0x10] ++ [0xF0, 0x80, 0xF0, 0x10, 0xF0] ++
  [0xF0, 0x80, 0xF0, 0x90, 0xF0] ++ [0xF0, 0x10, 0x20, 0x40, 0x40]

/-- The glyphs of the digits 8 to F (R27). -/
def glyphBytesHigh : List Byte :=
  [0xF0, 0x90, 0xF0, 0x90, 0xF0] ++ [0xF0, 0x90, 0xF0, 0x10, 0xF0] ++
  [0xF0, 0x90, 0xF0, 0x90, 0x90] ++ [0xE0, 0x90, 0xE0, 0x90, 0xE0] ++
  [0xF0, 0x80, 0x80, 0x80, 0xF0] ++ [0xE0, 0x90, 0x90, 0x90, 0xE0] ++
  [0xF0, 0x80, 0xF0, 0x80, 0xF0] ++ [0xF0, 0x80, 0xF0, 0x80, 0x80]

/-- The standard font of R27, the default of `GLYPHS`. -/
def defaultGlyphs : Vector Byte 80 := ⟨(glyphBytesLow ++ glyphBytesHigh).toArray, rfl⟩

end Sys2Proof.Machine
end

