-- ==== Sys2Proof/Machine/State.lean ====
section
/-! DEFINITION. The state of the block as plain data (10_state.md R20 to R34), the reasons a step or a host call
can stop, and the state after reset (R33, 70_reset_and_hazards.md R270). -/

namespace Sys2Proof.Machine

/-- The engine state `MODE` (R30, R104). It is no privilege level (R236). -/
inductive EngineMode where
  | running
  | waitingForKey
  deriving DecidableEq, Repr

/-- The non-fatal diagnostics of a step, each with the word it records (R231). -/
inductive Diagnostic where
  | unknownOpcode (word : Word)    -- UNKNOWN, R106
  | stackOverflow (word : Word)    -- CALL with SP = 16, R122
  | stackUnderflow (word : Word)   -- RET with SP = 0, R120
  deriving DecidableEq, Repr

/-- What a step returns to the host (R100): `Ok` or one diagnostic. -/
inductive StepResult where
  | ok
  | diagnostic (d : Diagnostic)
  deriving DecidableEq, Repr

/-- The memory `M` (R20). `glyphs` is the parameter `GLYPHS` (R6), the contents of 0x000-0x04F after reset, which
nothing changes; `cells` lists, at strictly rising addresses, the bytes that differ from the reset contents. -/
structure Memory where
  glyphs : Vector Byte 80
  cells : List Host.Cell
  deriving DecidableEq, Repr

/-- The whole state of the block (R20 to R31), and two fields of the model's own, `result` and `rndDraws`. -/
structure State where
  /-- The general registers; `V[15]` is the flag register `VF` (R21, R22). -/
  v : Vector Byte 16
  /-- The index register `I` (R23). -/
  i : Word
  /-- The program counter (R24). -/
  pc : Word
  /-- The stack pointer, the number of call-stack entries in use, 0 to 16 (R25). -/
  sp : Fin 17
  /-- The call stack `S` (R25). -/
  stack : Vector Word 16
  /-- The delay timer (R26). -/
  dt : Byte
  /-- The sound timer (R26). -/
  st : Byte
  /-- The framebuffer: cell (x, y) is `fb[y * 64 + x]`, lit when true (R28). -/
  fb : Vector Bool 2048
  /-- The dirty flag (R28). -/
  dirty : Bool
  /-- The keypad latch, true when the key is held (R29). -/
  key : Vector Bool 16
  /-- The engine state (R30). -/
  mode : EngineMode
  /-- The beep latch (R31). -/
  beep : Bool
  /-- The memory (R20). -/
  mem : Memory
  /-- The result of the most recent step (R100). The model's own field: the spec returns the result and stores it
  nowhere (D25). DESIGN CHOICE (notes/assumptions/3.md), safe. -/
  result : StepResult
  /-- How many random bytes have been drawn. The model's own field: it names the next free byte (R32).
  DESIGN CHOICE (notes/assumptions/2.md), safe. -/
  rndDraws : Nat
  deriving DecidableEq, Repr

/-- Why the machine could stop with a fault: it never does. The block has no trap (R230), no memory fault (R54), no
misaligned fetch (R52), and each of its errors is a value that a step returns (R231).
DEDUCED (notes/assumptions/10.md), safe: no instruction is left without its effect. -/
inductive Fault where
  deriving DecidableEq, Repr

/-- Why a call is refused. No instruction is refused: the last two are raised by host calls alone. -/
inductive Refusal where
  /-- Raised by an arm of `exec` for an instruction without a meaning; no arm is left so. Safe. -/
  | notModelled (mnemonic : String)
  /-- Raised by every host call but `initialize` before the first `initialize` (R275, D20). Safe. -/
  | notInitialized
  /-- Raised by `set_key` with an index above 15 (R246, D27). Safe. -/
  | keyIndexOutOfRange (index : Nat)
  deriving DecidableEq, Repr

/-- The state after `initialize` with the glyph table `glyphs` and `draws` random bytes drawn before it (R33, R270). -/
def State.resetWith (glyphs : Vector Byte 80) (draws : Nat) : State where
  v := Vector.replicate 16 0
  i := 0
  pc := BitVec.ofNat 16 Config.programBase
  sp := 0
  stack := Vector.replicate 16 0
  dt := 0
  st := 0
  fb := Vector.replicate 2048 false
  dirty := true
  key := Vector.replicate 16 false
  mode := .running
  beep := false
  mem := { glyphs := glyphs, cells := [] }
  result := .ok
  rndDraws := draws

/-- The state right after reset (R33) with the default `GLYPHS` (R27).
`result` and `rndDraws` are the model's own: their values here are DESIGN CHOICE (notes/assumptions/4.md), unsafe for
a statement that rests on them. -/
def State.reset : State := State.resetWith defaultGlyphs 0

end Sys2Proof.Machine
end

