-- ==== Sys2Proof/Machine/Ops.lean ====
section
/-! DEFINITION. The named operations over memory and registers that every meaning goes through: memory (20_memory.md
R53, R54), registers (R21), the program counter (40_engine_cycle.md R103), the call stack (R25), and raising a
diagnostic (60_exceptions.md R231), which is all that this hardware has in the place of an exception (R230). -/

namespace Sys2Proof.Machine

/-! ### Memory as a list of cells in one canonical form -/

/-- What an address that `cells` does not list reads as: the reset contents, `GLYPHS` at 0x000-0x04F and zero
elsewhere (R33, R58). -/
def Memory.unlisted (m : Memory) (a : Nat) : Byte :=
  if h : a < 80 then m.glyphs[a] else 0

/-- The byte a list of cells gives an address. -/
def cellAt : List Host.Cell → Nat → Option Byte
  | [], _ => none
  | (k, b) :: rest, a => if k = a then some b else cellAt rest a

/-- List a byte at an address, keeping the addresses rising. -/
def insertCell (a : Nat) (b : Byte) : List Host.Cell → List Host.Cell
  | [] => [(a, b)]
  | (k, c) :: rest =>
    if a < k then (a, b) :: (k, c) :: rest
    else if a = k then (a, b) :: rest
    else (k, c) :: insertCell a b rest

/-- List no byte at an address. -/
def eraseCell (a : Nat) : List Host.Cell → List Host.Cell
  | [] => []
  | (k, c) :: rest => if k = a then eraseCell a rest else (k, c) :: eraseCell a rest

/-- The byte `M[a]`. -/
def Memory.get (m : Memory) (a : Nat) : Byte := (cellAt m.cells a).getD (m.unlisted a)

/-- `M[a] <- b`. A byte equal to what the unlisted address reads as is not listed. -/
def Memory.put (m : Memory) (a : Nat) (b : Byte) : Memory :=
  if b = m.unlisted a then { m with cells := eraseCell a m.cells }
  else { m with cells := insertCell a b m.cells }

/-- The canonical form: addresses strictly rising, all below 4096, no entry equal to what the unlisted address reads
as. DESIGN CHOICE (notes/assumptions/19.md), safe: only how the bytes are written down. -/
def Memory.wf (m : Memory) : Bool :=
  decide ((m.cells.map Prod.fst).Pairwise (· < ·)) &&
    m.cells.all (fun c => decide (c.1 < Config.memorySize) && c.2 != m.unlisted c.1)

/-! ### Memory access (R10, R54) -/

/-- `MemRead(addr, 1)`: the effective address, computed without bound (R53), is taken modulo 4096 (R54).
UNVERIFIED (notes/assumptions/12.md), unsafe above 0xFFF: the spec's decision D2. -/
def State.memRead (s : State) (ea : Nat) : Byte := s.mem.get (ea % Config.memorySize)

/-- `MemWrite(addr, 1, v)`: as `memRead`, one byte. -/
def State.memWrite (s : State) (ea : Nat) (b : Byte) : State :=
  { s with mem := s.mem.put (ea % Config.memorySize) b }

/-- Store bytes at ascending addresses, the first at the base (R51, R55). -/
def State.storeBytes (s : State) (base : Nat) : List Byte → State
  | [] => s
  | b :: rest => (s.memWrite base b).storeBytes (base + 1) rest

/-! ### Registers (R21 to R23, R26) -/

/-- Read `V[x]`. -/
def State.reg (s : State) (x : Reg) : Byte := s.v[x]

/-- Write `V[x]`. -/
def State.setReg (s : State) (x : Reg) (b : Byte) : State := { s with v := s.v.set x b }

/-- Write the flag into `VF`, then the result into `V[x]`: with x = 15 the result stays (R140).
UNVERIFIED (notes/assumptions/13.md), unsafe where x is 15: the spec's decision D5. -/
def State.setFlagThenReg (s : State) (x : Reg) (flag result : Byte) : State :=
  (s.setReg 15 flag).setReg x result

/-- Write `I`. -/
def State.setIndex (s : State) (w : Word) : State := { s with i := w }

/-- Write `DT`. -/
def State.setDelayTimer (s : State) (b : Byte) : State := { s with dt := b }

/-- Write `ST`. -/
def State.setSoundTimer (s : State) (b : Byte) : State := { s with st := b }

/-- `for k in 0 .. count - 1: V[k] <- MemRead(base + k, 1)` (R175). -/
def State.loadRegs (s : State) (base : Nat) : Nat → State
  | 0 => s
  | k + 1 => (s.loadRegs base k).setReg (Fin.ofNat 16 k) (s.memRead (base + k))

/-! ### The program counter (R103). `PC` is 16 bits and wraps (R24) -/

/-- The kind "set": `pc <- target`. -/
def State.jumpTo (s : State) (target : Word) : State := { s with pc := target }

/-- The kind "next": `pc <- trunc_16(PC + 2)`.
UNVERIFIED (notes/assumptions/12.md), unsafe at the top of the range: the spec's decision D3. -/
def State.advance (s : State) : State := { s with pc := s.pc + 2 }

/-- The kind "skip": `pc <- trunc_16(PC + 4)` if the condition holds, else `pc <- trunc_16(PC + 2)`. -/
def State.skipIf (s : State) (c : Bool) : State := { s with pc := if c then s.pc + 4 else s.pc + 2 }

/-! ### The call stack (R25). `SP` counts the entries in use -/

/-- `S[SP] <- w; SP <- SP + 1`, when an entry is free. -/
def State.push (s : State) (w : Word) (free : s.sp.val < 16) : State :=
  { s with stack := s.stack.set s.sp.val w, sp := ⟨s.sp.val + 1, by omega⟩ }

/-- The top entry `S[SP - 1]`, when one is in use. -/
def State.top (s : State) (used : 0 < s.sp.val) : Word := s.stack[s.sp.val - 1]

/-- `SP <- SP - 1`; the entry keeps its value (R120). -/
def State.pop (s : State) : State := { s with sp := ⟨s.sp.val - 1, by omega⟩ }

/-! ### Diagnostics (R10, R231) -/

/-- The one way this hardware reports an error: record the diagnostic as the step's result and advance `PC` by 2. It
transfers no control and saves no state (R230), so there is no return beside it (R235). -/
def State.raiseDiagnostic (s : State) (d : Diagnostic) : State :=
  { s with result := .diagnostic d }.advance

end Sys2Proof.Machine
end

