-- ==== Sys2Proof/Machine/Operands.lean ====
section
/-! DEFINITION. The operand forms (30_encoding.md R72): zero-extended addresses, the address `I + k`, the glyph
address of a digit, decimal digits, the registers V[0] to V[X], keys, and the free random byte. -/

namespace Sys2Proof.Machine

/-- `zext_16(NNN)` (R72). -/
def zextAddr (nnn : Addr) : Word := nnn.setWidth 16

/-- `zext_16(V[X])` (R127, R172). -/
def zextByte (b : Byte) : Word := b.setWidth 16

/-- The address `I + k`, computed without bound (R53), of the k-th byte of an access through `I`. -/
def State.dataAddress (s : State) (k : Nat) : Nat := s.i.toNat + k

/-- `zext_16(V[X]) * 5` (R172), without masking.
UNVERIFIED (notes/assumptions/15.md), unsafe above 15: the spec's decision D10. -/
def glyphAddress (digit : Byte) : Word := zextByte digit * 5

/-- The hundreds, tens and units digits of a byte (R173, 90_conflicts.md C6). -/
def decimalDigits (b : Byte) : List Byte :=
  [BitVec.ofNat 8 (b.toNat / 100), BitVec.ofNat 8 (b.toNat / 10 % 10), BitVec.ofNat 8 (b.toNat % 10)]

/-- The values of `V[0]` to `V[x]`, in order (R174). -/
def State.lowRegs (s : State) (x : Reg) : List Byte := s.v.toList.take (x.val + 1)

/-- `Held(k) = (k < 16) and KEY[k] = 1` (45_keypad_timer_io.md).
UNVERIFIED (notes/assumptions/15.md), unsafe above 15: the spec's decision D9. -/
def State.held (s : State) (k : Nat) : Bool := if h : k < 16 then s.key[k] else false

/-- The scan of R213 over the keys below `count`, low to high, the last match winning. -/
def State.scanKeys (s : State) : Nat → Option Nat
  | 0 => none
  | k + 1 => if s.held k then some k else s.scanKeys k

/-- The highest held key, if any (R213). -/
def State.heldKey (s : State) : Option Nat := s.scanKeys 16

/-- The free byte of this draw (R32, R152). DESIGN CHOICE (notes/assumptions/2.md), safe: nothing is known of it. -/
def State.nextRandom (s : State) : Byte := Config.rndByte s.rndDraws

/-- The draw is used: the next one is another free byte (R152, "The draw of one step is independent of every
other"). -/
def State.countDraw (s : State) : State := { s with rndDraws := s.rndDraws + 1 }

end Sys2Proof.Machine
end

