-- ==== Sys2Proof/Machine/Alu.lean ====
section
/-! DEFINITION. Register arithmetic, logic and random (42_alu.md R140 to R153). Every source register is read from the
state before the instruction (R140). UNVERIFIED (notes/assumptions/13.md): the destination is `V[X]` (D30) and the
shifts take `V[X]` (D6) by the spec's decisions. -/

namespace Sys2Proof.Machine

/-- LD Vx, NN (R141). -/
def execLdImm (x : Reg) (nn : Byte) (s : State) : Host.Outcome State Fault Refusal :=
  .next (s.setReg x nn).advance

/-- ADD Vx, NN (R142): wraps, no flag. -/
def execAddImm (x : Reg) (nn : Byte) (s : State) : Host.Outcome State Fault Refusal :=
  .next (s.setReg x (s.reg x + nn)).advance

/-- LD Vx, Vy (R143). -/
def execLdReg (x y : Reg) (s : State) : Host.Outcome State Fault Refusal :=
  .next (s.setReg x (s.reg y)).advance

/-- OR Vx, Vy (R144): no flag. -/
def execOrReg (x y : Reg) (s : State) : Host.Outcome State Fault Refusal :=
  .next (s.setReg x (s.reg x ||| s.reg y)).advance

/-- AND Vx, Vy (R145): no flag. -/
def execAndReg (x y : Reg) (s : State) : Host.Outcome State Fault Refusal :=
  .next (s.setReg x (s.reg x &&& s.reg y)).advance

/-- XOR Vx, Vy (R146): no flag. -/
def execXorReg (x y : Reg) (s : State) : Host.Outcome State Fault Refusal :=
  .next (s.setReg x (s.reg x ^^^ s.reg y)).advance

/-- ADD Vx, Vy (R147): `VF` is the carry. -/
def execAddReg (x y : Reg) (s : State) : Host.Outcome State Fault Refusal :=
  .next (s.setFlagThenReg x (flagByte (carryOfAdd (s.reg x) (s.reg y))) (s.reg x + s.reg y)).advance

/-- SUB Vx, Vy (R148): `VF` is not borrow of X - Y (90_conflicts.md C8). -/
def execSubReg (x y : Reg) (s : State) : Host.Outcome State Fault Refusal :=
  .next (s.setFlagThenReg x (flagByte (noBorrow (s.reg x) (s.reg y))) (s.reg x - s.reg y)).advance

/-- SUBN Vx, Vy (R149): `VF` is not borrow of Y - X. -/
def execSubnReg (x y : Reg) (s : State) : Host.Outcome State Fault Refusal :=
  .next (s.setFlagThenReg x (flagByte (noBorrow (s.reg y) (s.reg x))) (s.reg y - s.reg x)).advance

/-- SHR Vx (R150): `VF` is the old bit 0; the field Y is ignored. -/
def execShr (x _y : Reg) (s : State) : Host.Outcome State Fault Refusal :=
  .next (s.setFlagThenReg x (flagByte (bitOutRight (s.reg x))) (s.reg x >>> 1)).advance

/-- SHL Vx (R151): `VF` is the old bit 7; the field Y is ignored. -/
def execShl (x _y : Reg) (s : State) : Host.Outcome State Fault Refusal :=
  .next (s.setFlagThenReg x (flagByte (bitOutLeft (s.reg x))) (s.reg x <<< 1)).advance

/-- RND Vx, NN (R152): a free byte AND NN. -/
def execRnd (x : Reg) (nn : Byte) (s : State) : Host.Outcome State Fault Refusal :=
  .next (s.setReg x (s.nextRandom &&& nn)).countDraw.advance

end Sys2Proof.Machine
end

