-- ==== Sys2Proof/Machine/Control.lean ====
section
/-! DEFINITION. Control transfer: jumps, calls, returns, skips (41_control_flow.md R120 to R127). -/

namespace Sys2Proof.Machine

/-- RET (R120): the saved address is that of the CALL, so 2 is added; with `SP = 0`, StackUnderflow.
UNVERIFIED (notes/assumptions/15.md), unsafe at `SP = 0`: the spec's decision D12. -/
def execRet (s : State) : Host.Outcome State Fault Refusal :=
  if used : 0 < s.sp.val then .next (s.pop.jumpTo (s.top used + 2))
  else .next (s.raiseDiagnostic (.stackUnderflow (encode .ret)))

/-- JP NNN (R121). -/
def execJp (nnn : Addr) (s : State) : Host.Outcome State Fault Refusal :=
  .next (s.jumpTo (zextAddr nnn))

/-- CALL NNN (R122): the CALL's own address is pushed; with `SP = 16`, StackOverflow.
UNVERIFIED (notes/assumptions/15.md), unsafe at `SP = 16`: the spec's decision D12. -/
def execCall (nnn : Addr) (s : State) : Host.Outcome State Fault Refusal :=
  if free : s.sp.val < 16 then .next ((s.push s.pc free).jumpTo (zextAddr nnn))
  else .next (s.raiseDiagnostic (.stackOverflow (encode (.call nnn))))

/-- SE Vx, NN (R123). -/
def execSeImm (x : Reg) (nn : Byte) (s : State) : Host.Outcome State Fault Refusal :=
  .next (s.skipIf (s.reg x == nn))

/-- SNE Vx, NN (R124). -/
def execSneImm (x : Reg) (nn : Byte) (s : State) : Host.Outcome State Fault Refusal :=
  .next (s.skipIf (s.reg x != nn))

/-- SE Vx, Vy (R125). -/
def execSeReg (x y : Reg) (s : State) : Host.Outcome State Fault Refusal :=
  .next (s.skipIf (s.reg x == s.reg y))

/-- SNE Vx, Vy (R126). -/
def execSneReg (x y : Reg) (s : State) : Host.Outcome State Fault Refusal :=
  .next (s.skipIf (s.reg x != s.reg y))

/-- JP V0, NNN (R127): the sum fits 16 bits and is kept unreduced. -/
def execJpV0 (nnn : Addr) (s : State) : Host.Outcome State Fault Refusal :=
  .next (s.jumpTo (zextByte (s.reg 0) + zextAddr nnn))

end Sys2Proof.Machine
end

