-- ==== Sys2Proof/Machine/Display.lean ====
section
/-! DEFINITION. Display: clear and draw (44_display.md R190, R191). UNVERIFIED (notes/assumptions/14.md), unsafe where
the hardware differs: bit 7 leftmost (D7), clipping (D8) and `y * 64 + x` (D19) are the spec's decisions. -/

namespace Sys2Proof.Machine

/-- CLS (R190): `DIRTY` is set even when nothing was lit. -/
def execCls (s : State) : Host.Outcome State Fault Refusal :=
  .next { s with fb := Vector.replicate 2048 false, dirty := true }.advance

/-- A drawing in progress: the framebuffer and the collision flag `c` of R191. -/
structure Canvas where
  fb : Vector Bool 2048
  collision : Bool
  deriving DecidableEq, Repr

/-- One pixel of R191: a set bit on the screen flips its cell, and collides when the cell was lit; a pixel off the
screen is clipped. -/
def drawPixel (set : Bool) (x y : Nat) (c : Canvas) : Canvas :=
  if h : set = true ∧ x < 64 ∧ y < 32 then
    have : y * 64 + x < 2048 := by omega
    { fb := c.fb.set (y * 64 + x) (!c.fb[y * 64 + x]), collision := c.collision || c.fb[y * 64 + x] }
  else c

/-- The first `count` pixels of a sprite row at row `y`: pixel p is bit 7 - p of the byte, at column `x0 + p`. -/
def drawRow (b : Byte) (x0 y : Nat) : Nat → Canvas → Canvas
  | 0, c => c
  | p + 1, c => drawPixel (b.getLsbD (7 - p)) (x0 + p) y (drawRow b x0 y p c)

/-- The first `count` rows of the sprite at `I`: row r is the byte at `I + r`, drawn at row `y0 + r`. -/
def State.drawRows (s : State) (x0 y0 : Nat) : Nat → Canvas → Canvas
  | 0, c => c
  | r + 1, c => drawRow (s.memRead (s.dataAddress r)) x0 (y0 + r) 8 (s.drawRows x0 y0 r c)

/-- DRW Vx, Vy, N (R191): both coordinates are read before `VF` is written. -/
def execDrw (x y : Reg) (n : Fin 16) (s : State) : Host.Outcome State Fault Refusal :=
  let c := s.drawRows (s.reg x).toNat (s.reg y).toNat n.val { fb := s.fb, collision := false }
  .next ({ s with fb := c.fb, dirty := true }.setReg 15 (flagByte c.collision)).advance

end Sys2Proof.Machine
end

