-- ==== Sys2Proof/Machine/Engine.lean ====
section
/-! DEFINITION. What a step does around its instruction (40_engine_cycle.md R100, R101, R105, 60_exceptions.md R240), and
the pseudo-instruction UNKNOWN (R106). -/

namespace Sys2Proof.Machine

/-- `Fetch(PC)` (R10, R101): two byte reads, the first the more significant; the addresses wrap (R54). -/
def State.fetch (s : State) : Word :=
  wordOfBytes (s.memRead s.pc.toNat) (s.memRead (s.pc.toNat + 1))

/-- `result <- Ok` (R100): no diagnostic is sticky (R232). -/
def State.clearResult (s : State) : State := { s with result := .ok }

/-- The instruction is LD Vx,K. -/
def isWaitForKey : Instr → Bool
  | .ldVxK _ => true
  | .cls | .ret | .jp _ | .call _ | .seImm _ _ | .sneImm _ _ | .seReg _ _ | .ldImm _ _ | .addImm _ _
  | .ldReg _ _ | .orReg _ _ | .andReg _ _ | .xorReg _ _ | .addReg _ _ | .subReg _ _ | .shr _ _ | .subnReg _ _
  | .shl _ _ | .sneReg _ _ | .ldI _ | .jpV0 _ | .rnd _ _ | .drw _ _ _ | .skp _ | .sknp _ | .ldVxDT _
  | .ldDTVx _ | .ldSTVx _ | .addIVx _ | .ldFVx _ | .ldBVx _ | .ldMemVx _ | .ldVxMem _ | .unknown _ => false

/-- `NextMode(ins)` (R105), on the keys as the instruction saw them. -/
def State.nextMode (s : State) (i : Instr) : EngineMode :=
  if isWaitForKey i && s.heldKey.isNone then .waitingForKey else .running

/-- `MODE <- m`. -/
def State.setMode (s : State) (m : EngineMode) : State := { s with mode := m }

/-- One countdown of a timer (R240): "Timers never go below zero". -/
def countDown (t : Byte) : Byte := if t.toNat > 0 then t - 1 else t

/-- `Tick()` (R240). The beep is of the tick that takes `ST` from 1 to 0.
UNVERIFIED (notes/assumptions/16.md), unsafe for beep counts: the latch is the spec's decision D14. -/
def State.tick (s : State) : State :=
  { s with dt := countDown s.dt, st := countDown s.st, beep := s.st == 1 }

/-- What follows the instruction in its step (R100): `MODE <- NextMode(ins)`, then `Tick()`. -/
def State.finish (s : State) (i : Instr) : State := (s.setMode (s.nextMode i)).tick

/-- UNKNOWN (R106). -/
def execUnknown (w : Word) (s : State) : Host.Outcome State Fault Refusal :=
  .next (s.raiseDiagnostic (.unknownOpcode w))

end Sys2Proof.Machine
end

