-- ==== Sys2Proof/Machine/Index.lean ====
section
/-! DEFINITION. The index register and memory transfers (43_index_memory.md R170 to R175). -/

namespace Sys2Proof.Machine

/-- LD I, NNN (R170). -/
def execLdI (nnn : Addr) (s : State) : Host.Outcome State Fault Refusal :=
  .next (s.setIndex (zextAddr nnn)).advance

/-- ADD I, Vx (R171): `VF` says that the full sum exceeds 0xFFF; `I` keeps the sum modulo 2^16. -/
def execAddIVx (x : Reg) (s : State) : Host.Outcome State Fault Refusal :=
  .next ((s.setReg 15 (flagByte (indexOverflow s.i (s.reg x)))).setIndex (s.i + zextByte (s.reg x))).advance

/-- LD F, Vx (R172). -/
def execLdFVx (x : Reg) (s : State) : Host.Outcome State Fault Refusal :=
  .next (s.setIndex (glyphAddress (s.reg x))).advance

/-- LD B, Vx (R173): hundreds, tens, units at `I`, `I + 1`, `I + 2`; `I` is not changed. -/
def execLdBVx (x : Reg) (s : State) : Host.Outcome State Fault Refusal :=
  .next (s.storeBytes (s.dataAddress 0) (decimalDigits (s.reg x))).advance

/-- `I <- trunc_16(I + X + 1)` (R174, R175). -/
def State.bumpIndex (s : State) (x : Reg) : State := s.setIndex (s.i + BitVec.ofNat 16 (x.val + 1))

/-- LD [I], Vx (R174): `V[0]` to `V[x]` at ascending addresses from `I`, then `I` moves past them. -/
def execLdMemVx (x : Reg) (s : State) : Host.Outcome State Fault Refusal :=
  .next ((s.storeBytes (s.dataAddress 0) (s.lowRegs x)).bumpIndex x).advance

/-- LD Vx, [I] (R175): `V[0]` to `V[x]` from ascending addresses from `I`, then `I` moves past them. -/
def execLdVxMem (x : Reg) (s : State) : Host.Outcome State Fault Refusal :=
  .next ((s.loadRegs (s.dataAddress 0) (x.val + 1)).bumpIndex x).advance

end Sys2Proof.Machine
end

