-- ==== Sys2Proof/Machine/Keypad.lean ====
section
/-! DEFINITION. Keypad and timer instructions (45_keypad_timer_io.md R210 to R215). The tick of the same step runs after
them (R240). -/

namespace Sys2Proof.Machine

/-- SKP Vx (R210). -/
def execSkp (x : Reg) (s : State) : Host.Outcome State Fault Refusal :=
  .next (s.skipIf (s.held (s.reg x).toNat))

/-- SKNP Vx (R211). -/
def execSknp (x : Reg) (s : State) : Host.Outcome State Fault Refusal :=
  .next (s.skipIf (!s.held (s.reg x).toNat))

/-- LD Vx, DT (R212): the value before this step's tick. -/
def execLdVxDT (x : Reg) (s : State) : Host.Outcome State Fault Refusal :=
  .next (s.setReg x s.dt).advance

/-- LD Vx, K (R213): with no key held the step is blocked, `PC` is held and nothing is written. -/
def execLdVxK (x : Reg) (s : State) : Host.Outcome State Fault Refusal :=
  match s.heldKey with
  | none => .next s
  | some k => .next (s.setReg x (BitVec.ofNat 8 k)).advance

/-- LD DT, Vx (R214). -/
def execLdDTVx (x : Reg) (s : State) : Host.Outcome State Fault Refusal :=
  .next (s.setDelayTimer (s.reg x)).advance

/-- LD ST, Vx (R215). -/
def execLdSTVx (x : Reg) (s : State) : Host.Outcome State Fault Refusal :=
  .next (s.setSoundTimer (s.reg x)).advance

end Sys2Proof.Machine
end

