-- ==== Sys2Proof/Machine/Step.lean ====
section
/-! DEFINITION. One step of the machine (40_engine_cycle.md R100), and the placing of one instruction where the next step
fetches it. -/

namespace Sys2Proof.Machine

/-- `step()` (R100): fetch, decode, `result <- Ok`, execute, `MODE <- NextMode(ins)`, `Tick()`.
DEDUCED (notes/assumptions/7.md), safe: the parts around the instruction stand here, not in the meanings. -/
def step (s : State) : Host.Outcome State Fault Refusal :=
  match exec (decodeWord s.fetch) s.clearResult with
  | .next t => .next (t.finish (decodeWord s.fetch))
  | .fault r => .fault r
  | .refused r => .refused r

/-- The state with a table row's word stored where the next step fetches: at `PC` and `PC + 1` (R101).
DESIGN CHOICE (notes/assumptions/6.md), safe: it stands for the `load` of a program (R271). -/
def State.withFetchWord (s : State) (nbits w : Nat) : State :=
  s.storeBytes s.pc.toNat (bytesOfWord (tableWord nbits w))

end Sys2Proof.Machine
end

