-- ==== Sys2Proof/Machine/HostCalls.lean ====
section
/-! DEFINITION. The operations of the host (60_exceptions.md R241, R245 to R247, 70_reset_and_hazards.md R270 to R275):
each one atomic transition of the state, between steps (R56, D1).
DESIGN CHOICE (notes/assumptions/8.md), safe: calls are data, and a block before its first `initialize` is `none`. -/

namespace Sys2Proof.Machine

/-- `initialize()` (R270): every piece of state takes its reset value. `GLYPHS` is a parameter and stays; the count
of draws stays too, so that the draws after a restart are other free bytes than those before it.
DESIGN CHOICE (notes/assumptions/5.md), safe. -/
def State.reinitialize (s : State) : State := State.resetWith s.mem.glyphs s.rndDraws

/-- What `load` receives: a byte sequence, or the token that it cannot be obtained (R273, D26). -/
inductive RomSource where
  | bytes (rom : List Byte)
  | unavailable
  deriving DecidableEq, Repr

/-- What `load` returns (R231, R271). -/
inductive LoadResult where
  | ok
  | romTooLarge
  | sourceUnavailable
  deriving DecidableEq, Repr

/-- The state after `load(src)` (R271 to R273): the bytes from 0x200, or nothing changed. -/
def State.load (s : State) : RomSource → State
  | .unavailable => s
  | .bytes rom => if rom.length > Config.maxRomLength then s else s.storeBytes Config.programBase rom

/-- The result of `load(src)` (R271 to R273). -/
def loadResult : RomSource → LoadResult
  | .unavailable => .sourceUnavailable
  | .bytes rom => if rom.length > Config.maxRomLength then .romTooLarge else .ok

/-- `clear_dirty()` (R245). -/
def State.clearDirty (s : State) : State := { s with dirty := false }

/-- `KEY[k] <- held` (R246). -/
def State.setKey (s : State) (k : Fin 16) (held : Bool) : State := { s with key := s.key.set k held }

/-- `beep_events()` clears the latch (R241). -/
def State.clearBeep (s : State) : State := { s with beep := false }

/-- The cell (x, y) of the framebuffer, column 0 to 63, row 0 to 31 (R28). -/
def State.cell (s : State) (x : Fin 64) (y : Fin 32) : Bool := s.fb[y.val * 64 + x.val]

/-- A call of the host (R247). `engineMode` is the host's observation of `MODE` (R34). -/
inductive HostCall where
  /-- `initialize()`. -/
  | init
  | load (src : RomSource)
  | step
  | framebuffer
  | isDirty
  | clearDirty
  | setKey (index : Nat) (held : Bool)
  | beepEvents
  | engineMode
  deriving DecidableEq, Repr

/-- What a call answers (R247). -/
inductive HostReply where
  | none
  | loaded (r : LoadResult)
  | stepped (r : StepResult)
  | grid (fb : Vector Bool 2048)
  | flag (b : Bool)
  | notifications (n : Nat)
  | observed (m : EngineMode)
  deriving DecidableEq, Repr

/-- A call on an initialized block: the next state and the reply, or a refusal of a call outside its domain. -/
def State.answer (s : State) : HostCall → Host.Outcome (State × HostReply) Fault Refusal
  | .init => .next (s.reinitialize, .none)
  | .load src => .next (s.load src, .loaded (loadResult src))
  | .step =>
    match Sys2Proof.Machine.step s with
    | .next t => .next (t, .stepped t.result)
    | .fault r => .fault r
    | .refused r => .refused r
  | .framebuffer => .next (s, .grid s.fb)
  | .isDirty => .next (s, .flag s.dirty)
  | .clearDirty => .next (s.clearDirty, .none)
  | .setKey k held =>
    if h : k < 16 then .next (s.setKey ⟨k, h⟩ held, .none) else .refused (.keyIndexOutOfRange k)
  | .beepEvents => .next (s.clearBeep, .notifications (if s.beep then 1 else 0))
  | .engineMode => .next (s, .observed s.mode)

/-- A call on the block (R274, R275): before the first `initialize` there is no state, and every other call is
refused. The first `initialize` gives the reset state. -/
def perform (block : Option State) (c : HostCall) : Host.Outcome (State × HostReply) Fault Refusal :=
  match block, c with
  | none, .init => .next (State.reset, .none)
  | none, .load _ | none, .step | none, .framebuffer | none, .isDirty | none, .clearDirty | none, .setKey _ _
  | none, .beepEvents | none, .engineMode => .refused .notInitialized
  | some s, c => s.answer c

end Sys2Proof.Machine
end

