-- ==== Sys2Proof/Safety.lean ====
section
/-! DEFINITION. The terms claims are stated in: what an instruction may change (frames), the invariant of the state, and
what a run without diagnostics is. -/

namespace Sys2Proof.Machine

/-- The pieces of the state other than the general registers, for frames. The step's own additions, `MODE` and `BEEP`,
are pieces too. -/
inductive Part where
  | index | pc | stack | delayTimer | soundTimer | framebuffer | dirty | keypad | mode | beep | memory | glyphs
  | result | draws
  deriving DecidableEq, Repr

/-- A piece reads in `t` as it did in `s`; memory byte by byte, at every address of the address space and above it. -/
def Part.same (s t : State) : Part → Prop
  | .index => t.i = s.i
  | .pc => t.pc = s.pc
  | .stack => t.sp = s.sp ∧ t.stack = s.stack
  | .delayTimer => t.dt = s.dt
  | .soundTimer => t.st = s.st
  | .framebuffer => t.fb = s.fb
  | .dirty => t.dirty = s.dirty
  | .keypad => t.key = s.key
  | .mode => t.mode = s.mode
  | .beep => t.beep = s.beep
  | .memory => ∀ a, t.memRead a = s.memRead a
  | .glyphs => t.mem.glyphs = s.mem.glyphs
  | .result => t.result = s.result
  | .draws => t.rndDraws = s.rndDraws

/-- The frame of an instruction: every register outside `regs` and every piece outside `parts` reads as before. -/
def frame (regs : List Reg) (parts : List Part) (s t : State) : Prop :=
  (∀ r, r ∉ regs → t.reg r = s.reg r) ∧ ∀ p, p ∉ parts → p.same s t

/-- The effective address `ea` names one of the `count` bytes stored from `base` on, addresses taken modulo 4096
(R54, R55). -/
def stored (base count ea : Nat) : Prop :=
  ∃ k, k < count ∧ (base + k) % Config.memorySize = ea % Config.memorySize

/-- The invariant of the block: memory is in canonical form; a beep in the latch means that the sound has ended
(R240); a wait for a key reports no diagnostic (R213, R233). -/
def Inv (s : State) : Prop :=
  s.mem.wf = true ∧ (s.beep = true → s.st = 0) ∧ (s.mode = .waitingForKey → s.result = .ok)

/-- The bit of the sprite at `I` (height `n`, top-left pixel at `(x0, y0)`) that falls on the cell `(x, y)`: row
`y - y0`, and bit 7 for the leftmost column (R191, D7). No wraparound: the sprite covers columns `x0` to `x0 + 7` and
rows `y0` to `y0 + n - 1` alone (D8). -/
def State.spriteBit (s : State) (x0 y0 n x y : Nat) : Bool :=
  decide (x0 ≤ x ∧ x < x0 + 8 ∧ y0 ≤ y ∧ y < y0 + n) &&
    (s.memRead (s.dataAddress (y - y0))).getLsbD (7 - (x - x0))

/-- `PC` has advanced by `d` bytes modulo 2^16 (R24, R103). -/
def advanced (d : Nat) (s t : State) : Prop := t.pc.toNat = (s.pc.toNat + d) % 65536

/-- The states agree but for the call-stack entries above the top, `S[k]` with `k >= SP` (R25). -/
def sameBelowTop (s t : State) : Prop :=
  t = { s with stack := t.stack } ∧ ∀ k (h : k < 16), k < s.sp.val → t.stack[k] = s.stack[k]

/-- The registers that an instruction may write: `V[X]` by the list of R21, `VF` by the list of R22, and `V[0]` to
`V[X]` for LD Vx,[I]. -/
def destinations : Instr → List Reg
  | .ldImm x _ | .addImm x _ | .ldReg x _ | .orReg x _ | .andReg x _ | .xorReg x _ | .rnd x _ | .ldVxDT x
  | .ldVxK x => [x]
  | .addReg x _ | .subReg x _ | .subnReg x _ | .shr x _ | .shl x _ => [x, 15]
  | .drw _ _ _ | .addIVx _ => [15]
  | .ldVxMem x => (List.finRange 16).filter (fun r => r.val ≤ x.val)
  | .cls | .ret | .jp _ | .call _ | .seImm _ _ | .sneImm _ _ | .seReg _ _ | .sneReg _ _ | .ldI _ | .jpV0 _ | .skp _
  | .sknp _ | .ldDTVx _ | .ldSTVx _ | .ldFVx _ | .ldBVx _ | .ldMemVx _ | .unknown _ => []

/-- The instruction is UNKNOWN. -/
def isUnknown : Instr → Bool
  | .unknown _ => true
  | .cls | .ret | .jp _ | .call _ | .seImm _ _ | .sneImm _ _ | .seReg _ _ | .ldImm _ _ | .addImm _ _
  | .ldReg _ _ | .orReg _ _ | .andReg _ _ | .xorReg _ _ | .addReg _ _ | .subReg _ _ | .shr _ _ | .subnReg _ _
  | .shl _ _ | .sneReg _ _ | .ldI _ | .jpV0 _ | .rnd _ _ | .drw _ _ _ | .skp _ | .sknp _ | .ldVxDT _ | .ldVxK _
  | .ldDTVx _ | .ldSTVx _ | .addIVx _ | .ldFVx _ | .ldBVx _ | .ldMemVx _ | .ldVxMem _ => false

/-- The instruction is a jump, call, return or skip (R108). -/
def isTransfer : Instr → Bool
  | .jp _ | .call _ | .ret | .jpV0 _ | .seImm _ _ | .sneImm _ _ | .seReg _ _ | .sneReg _ _ | .skp _ | .sknp _ => true
  | .cls | .ldImm _ _ | .addImm _ _ | .ldReg _ _ | .orReg _ _ | .andReg _ _ | .xorReg _ _ | .addReg _ _
  | .subReg _ _ | .shr _ _ | .subnReg _ _ | .shl _ _ | .ldI _ | .rnd _ _ | .drw _ _ _ | .ldVxDT _ | .ldVxK _
  | .ldDTVx _ | .ldSTVx _ | .addIVx _ | .ldFVx _ | .ldBVx _ | .ldMemVx _ | .ldVxMem _ | .unknown _ => false

/-- A run of `n` steps from `s` that ends in `t` and reports no diagnostic at any step: the premise R232 leaves to the
claim. -/
def cleanRun : Nat → State → State → Prop
  | 0, s, t => t = s
  | n + 1, s, t => ∃ u, step s = .next u ∧ u.result = .ok ∧ cleanRun n u t

end Sys2Proof.Machine
end

