-- ==== Sys2Proof/Certificates/Slice0/Obligations.lean ====
section
/-! DEFINITION. The statements for the provers, from the numbered rules of spec/. Arithmetic is on natural numbers, as in
the spec's pseudocode (00_scope.md R8). In the statement of an instruction the first clause is the rule's own encoding
line; but for 6XNN and ANNN the bit patterns there are the spec's decision D22 (notes/assumptions/11.md), so those
statements have the basis 'derived'. -/

open Sys2Proof Sys2Proof.Machine

/-! ### Encoding (30_encoding.md) -/

/-- Decoding undoes encoding for every well-formed instruction, as a word and as bytes before any others (R70, R73). -/
def Obligations.DecodeUndoesEncode : Prop :=
  ∀ i : Instr, i.wellFormed = true →
    decodeWord (encode i) = i ∧ ∀ rest, decode (encodeBytes i ++ rest) = .ok (i, rest)

/-- Encoding undoes decoding: every word decodes to a well-formed instruction whose word it is (R73, R102), so decoding
drops no bit. -/
def Obligations.EncodeUndoesDecode : Prop :=
  ∀ w : Word, (decodeWord w).wellFormed = true ∧ encode (decodeWord w) = w

/-- The decode table R73, row by row, and the words that are UNKNOWN (R74, R75). The patterns are the spec's decisions
D11 and D22. -/
def Obligations.DecodeTable : Prop :=
  ∀ (x y n : Fin 16) (nn : Byte) (nnn : Addr),
    decodeWord 0x00E0#16 = .cls ∧ decodeWord 0x00EE#16 = .ret ∧
    (nnn ≠ 0x0E0#12 → nnn ≠ 0x0EE#12 → decodeWord (wordNNN 0x0#4 nnn) = .unknown (wordNNN 0x0#4 nnn)) ∧
    decodeWord (wordNNN 0x1#4 nnn) = .jp nnn ∧ decodeWord (wordNNN 0x2#4 nnn) = .call nnn ∧
    decodeWord (wordXNN 0x3#4 x nn) = .seImm x nn ∧ decodeWord (wordXNN 0x4#4 x nn) = .sneImm x nn ∧
    decodeWord (wordXYN 0x5#4 x y n) = (if n.val = 0 then .seReg x y else .unknown (wordXYN 0x5#4 x y n)) ∧
    decodeWord (wordXNN 0x6#4 x nn) = .ldImm x nn ∧ decodeWord (wordXNN 0x7#4 x nn) = .addImm x nn ∧
    decodeWord (wordXYN 0x8#4 x y n) =
      (if n.val = 0 then .ldReg x y else if n.val = 1 then .orReg x y else if n.val = 2 then .andReg x y
       else if n.val = 3 then .xorReg x y else if n.val = 4 then .addReg x y else if n.val = 5 then .subReg x y
       else if n.val = 6 then .shr x y else if n.val = 7 then .subnReg x y else if n.val = 14 then .shl x y
       else .unknown (wordXYN 0x8#4 x y n)) ∧
    decodeWord (wordXYN 0x9#4 x y n) = (if n.val = 0 then .sneReg x y else .unknown (wordXYN 0x9#4 x y n)) ∧
    decodeWord (wordNNN 0xA#4 nnn) = .ldI nnn ∧ decodeWord (wordNNN 0xB#4 nnn) = .jpV0 nnn ∧
    decodeWord (wordXNN 0xC#4 x nn) = .rnd x nn ∧ decodeWord (wordXYN 0xD#4 x y n) = .drw x y n ∧
    decodeWord (wordXNN 0xE#4 x nn) =
      (if nn.toNat = 0x9E then .skp x else if nn.toNat = 0xA1 then .sknp x else .unknown (wordXNN 0xE#4 x nn)) ∧
    decodeWord (wordXNN 0xF#4 x nn) =
      (if nn.toNat = 0x07 then .ldVxDT x else if nn.toNat = 0x0A then .ldVxK x
       else if nn.toNat = 0x15 then .ldDTVx x else if nn.toNat = 0x18 then .ldSTVx x
       else if nn.toNat = 0x1E then .addIVx x else if nn.toNat = 0x29 then .ldFVx x
       else if nn.toNat = 0x33 then .ldBVx x else if nn.toNat = 0x55 then .ldMemVx x
       else if nn.toNat = 0x65 then .ldVxMem x else .unknown (wordXNN 0xF#4 x nn))

/-- The opcode table is unambiguous and the decoder follows it: no word is taken by two rows, and a word is UNKNOWN
exactly when no row takes it (R73, R74). -/
def Obligations.OpcodeRowsDisjointAndFollowed : Prop :=
  ∀ w : Word,
    (∀ r ∈ opcodeRows, ∀ q ∈ opcodeRows, r.takes w = true → q.takes w = true → r = q) ∧
    (isUnknown (decodeWord w) = true ↔ ∀ r ∈ opcodeRows, r.takes w = false)

/-- A few words decode to the instructions they stand for (95_test_vectors.md; 600A and A250 are the source's own), and
fewer than two bytes are refused. -/
def Obligations.SampleWordsDecode : Prop :=
  decodeWord 0x600A#16 = .ldImm 0 0x0A#8 ∧ decodeWord 0xA250#16 = .ldI 0x250#12 ∧
  decodeWord 0x812E#16 = .shl 1 2 ∧ decodeWord 0xDAB0#16 = .drw 10 11 0 ∧ decodeWord 0xB123#16 = .jpV0 0x123#12 ∧
  decodeWord 0xF30A#16 = .ldVxK 3 ∧ decodeWord 0xE5A1#16 = .sknp 5 ∧ decodeWord 0x5121#16 = .unknown 0x5121#16 ∧
  decode [] = .error .fewerThanTwoBytes ∧ decode [0x60#8] = .error .fewerThanTwoBytes

/-! ### The step (40_engine_cycle.md, 60_exceptions.md) -/

/-- When the bytes at `PC` decode to `i`, the step is `i` executed with the result cleared, then `MODE` and the timer
tick (R100). -/
def Obligations.StepRunsDecodedInstruction : Prop :=
  ∀ (s : State) (i : Instr), decode [s.memRead s.pc.toNat, s.memRead (s.pc.toNat + 1)] = .ok (i, []) →
    ∃ u, exec i { s with result := .ok } = .next u ∧
      step s = .next { u with
        mode := if isWaitForKey i && u.heldKey.isNone then .waitingForKey else .running
        dt := if u.dt.toNat > 0 then u.dt - 1 else u.dt
        st := if u.st.toNat > 0 then u.st - 1 else u.st
        beep := u.st == 1 }

/-- No instruction and no step ends in a fault or a refusal: each answers a next state, from every state. No rule says this
in one place: it is DEDUCED (notes/assumptions/10.md) from R54, R106, R230 and R231, with the spec's decisions D2, D12 and
D24. -/
def Obligations.EveryStepCompletes : Prop :=
  ∀ s : State, (∀ i : Instr, ∃ t, exec i s = .next t) ∧ ∃ t, step s = .next t

/-- Fetch is big-endian at any `PC`, odd or even, and wraps at the top of memory (R51, R52, R54, R101). The wrap is the
spec's decision D2 (notes/assumptions/12.md). -/
def Obligations.FetchIsBigEndianAndWraps : Prop :=
  ∀ s : State,
    s.fetch.toNat = (s.mem.get (s.pc.toNat % 4096)).toNat * 256 + (s.mem.get ((s.pc.toNat + 1) % 4096)).toNat ∧
    (s.pc = 0x0FFF#16 → s.fetch.toNat = (s.mem.get 0xFFF).toNat * 256 + (s.mem.get 0x000).toNat)

/-- After a step the block waits exactly when the instruction was LD Vx,K and no key was held (R105). -/
def Obligations.WaitsExactlyWhenNoKeyHeld : Prop :=
  ∀ s : State, ∃ t, step s = .next t ∧
    (t.mode = .waitingForKey ↔
      (∃ x, decodeWord s.fetch = .ldVxK x) ∧ ∀ k (h : k < 16), s.key[k] = false)

/-- `PC` moves by 2 in every step but that of a jump, call, return or skip, and is held by a blocked LD Vx,K
(R103, R108). The wrap modulo 2^16 is the spec's decision D3 (notes/assumptions/12.md). -/
def Obligations.PcAdvancesByTwo : Prop :=
  ∀ s : State, isTransfer (decodeWord s.fetch) = false → ∃ t, step s = .next t ∧
    if (∃ x, decodeWord s.fetch = .ldVxK x) ∧ (∀ k (h : k < 16), s.key[k] = false) then t.pc = s.pc
    else advanced 2 s t

/-- Every step counts both timers down once, after its instruction, never below zero, and beeps exactly when the sound
timer goes from 1 to 0 (R240). The latch that holds the beep is the spec's decision D14 (notes/assumptions/16.md). -/
def Obligations.TimersCountDownEveryStep : Prop :=
  ∀ (s : State) (d e : Byte),
    d = (match decodeWord s.fetch with | .ldDTVx x => s.reg x | _ => s.dt) →
    e = (match decodeWord s.fetch with | .ldSTVx x => s.reg x | _ => s.st) →
    ∃ t, step s = .next t ∧ t.dt.toNat = d.toNat - 1 ∧ t.st.toNat = e.toNat - 1 ∧ (t.beep = true ↔ e.toNat = 1)

/-! ### Control transfer (41_control_flow.md) -/

/-- JP NNN (R121). -/
def Obligations.JumpSetsPc : Prop :=
  ∀ (s : State) (nnn : Addr), decodeWord (wordNNN 0x1#4 nnn) = .jp nnn ∧
    ∃ t, exec (.jp nnn) s = .next t ∧ t.pc.toNat = nnn.toNat ∧ frame [] [.pc] s t

/-- JP V0, NNN: the sum is kept unreduced (R127, 41_control_flow.md). -/
def Obligations.JumpWithOffsetAddsV0 : Prop :=
  ∀ (s : State) (nnn : Addr), decodeWord (wordNNN 0xB#4 nnn) = .jpV0 nnn ∧
    ∃ t, exec (.jpV0 nnn) s = .next t ∧ t.pc.toNat = (s.reg 0).toNat + nnn.toNat ∧ frame [] [.pc] s t

/-- CALL NNN pushes its own address and jumps; with `SP = 16` it reports StackOverflow and only advances. What happens
with `SP = 16` is the spec's decision D12 (notes/assumptions/15.md). -/
def Obligations.CallPushesOwnAddress : Prop :=
  ∀ (s : State) (nnn : Addr), decodeWord (wordNNN 0x2#4 nnn) = .call nnn ∧
    (s.sp.val < 16 → ∃ t, exec (.call nnn) s = .next t ∧ t.sp.val = s.sp.val + 1 ∧
      (∀ k (h : k < 16), t.stack[k] = if k = s.sp.val then s.pc else s.stack[k]) ∧
      t.pc.toNat = nnn.toNat ∧ frame [] [.pc, .stack] s t) ∧
    (s.sp.val = 16 → ∃ t, exec (.call nnn) s = .next t ∧
      t.result = .diagnostic (.stackOverflow (wordNNN 0x2#4 nnn)) ∧ advanced 2 s t ∧ frame [] [.pc, .result] s t)

/-- RET pops the saved address and adds 2; with `SP = 0` it reports StackUnderflow and only advances. What happens with
`SP = 0` is the spec's decision D12 (notes/assumptions/15.md). -/
def Obligations.ReturnPopsAndAddsTwo : Prop :=
  ∀ s : State, decodeWord 0x00EE#16 = .ret ∧
    (∀ k (h : k < 16), s.sp.val = k + 1 → ∃ t, exec .ret s = .next t ∧ t.sp.val = k ∧ t.stack = s.stack ∧
      t.pc.toNat = (s.stack[k].toNat + 2) % 65536 ∧ frame [] [.pc, .stack] s t) ∧
    (s.sp.val = 0 → ∃ t, exec .ret s = .next t ∧
      t.result = .diagnostic (.stackUnderflow 0x00EE#16) ∧ advanced 2 s t ∧ frame [] [.pc, .result] s t)

/-- The four skips on registers and immediates: `PC + 4` when the condition holds, else `PC + 2` (R123 to R126). -/
def Obligations.RegisterSkips : Prop :=
  ∀ (s : State) (x y : Reg) (nn : Byte),
    (decodeWord (wordXNN 0x3#4 x nn) = .seImm x nn ∧ ∃ t, exec (.seImm x nn) s = .next t ∧
      advanced (if (s.reg x).toNat = nn.toNat then 4 else 2) s t ∧ frame [] [.pc] s t) ∧
    (decodeWord (wordXNN 0x4#4 x nn) = .sneImm x nn ∧ ∃ t, exec (.sneImm x nn) s = .next t ∧
      advanced (if (s.reg x).toNat ≠ nn.toNat then 4 else 2) s t ∧ frame [] [.pc] s t) ∧
    (decodeWord (wordXYN 0x5#4 x y 0) = .seReg x y ∧ ∃ t, exec (.seReg x y) s = .next t ∧
      advanced (if (s.reg x).toNat = (s.reg y).toNat then 4 else 2) s t ∧ frame [] [.pc] s t) ∧
    (decodeWord (wordXYN 0x9#4 x y 0) = .sneReg x y ∧ ∃ t, exec (.sneReg x y) s = .next t ∧
      advanced (if (s.reg x).toNat ≠ (s.reg y).toNat then 4 else 2) s t ∧ frame [] [.pc] s t)

/-! ### Arithmetic, logic and random (42_alu.md) -/

/-- LD Vx, NN (R141); its pattern 6XNN is the source's own. -/
def Obligations.LoadImmediate : Prop :=
  ∀ (s : State) (x : Reg) (nn : Byte), decodeWord (wordXNN 0x6#4 x nn) = .ldImm x nn ∧
    ∃ t, exec (.ldImm x nn) s = .next t ∧ t.reg x = nn ∧ advanced 2 s t ∧ frame [x] [.pc] s t

/-- ADD Vx, NN: the sum wraps and no flag is set (R142). -/
def Obligations.AddImmediateSetsNoFlag : Prop :=
  ∀ (s : State) (x : Reg) (nn : Byte), decodeWord (wordXNN 0x7#4 x nn) = .addImm x nn ∧
    ∃ t, exec (.addImm x nn) s = .next t ∧
      (t.reg x).toNat = ((s.reg x).toNat + nn.toNat) % 256 ∧ advanced 2 s t ∧ frame [x] [.pc] s t

/-- LD Vx, Vy, OR, AND and XOR: no flag side effects (R143 to R146). -/
def Obligations.CopyAndLogic : Prop :=
  ∀ (s : State) (x y : Reg),
    (decodeWord (wordXYN 0x8#4 x y 0) = .ldReg x y ∧ ∃ t, exec (.ldReg x y) s = .next t ∧
      t.reg x = s.reg y ∧ advanced 2 s t ∧ frame [x] [.pc] s t) ∧
    (decodeWord (wordXYN 0x8#4 x y 1) = .orReg x y ∧ ∃ t, exec (.orReg x y) s = .next t ∧
      (t.reg x).toNat = (s.reg x).toNat ||| (s.reg y).toNat ∧ advanced 2 s t ∧ frame [x] [.pc] s t) ∧
    (decodeWord (wordXYN 0x8#4 x y 2) = .andReg x y ∧ ∃ t, exec (.andReg x y) s = .next t ∧
      (t.reg x).toNat = (s.reg x).toNat &&& (s.reg y).toNat ∧ advanced 2 s t ∧ frame [x] [.pc] s t) ∧
    (decodeWord (wordXYN 0x8#4 x y 3) = .xorReg x y ∧ ∃ t, exec (.xorReg x y) s = .next t ∧
      (t.reg x).toNat = (s.reg x).toNat ^^^ (s.reg y).toNat ∧ advanced 2 s t ∧ frame [x] [.pc] s t)

/-- ADD Vx, Vy: the carry in `VF`, the sum modulo 256 in `V[X]`, which wins when X is 15 (R147). -/
def Obligations.AddRegistersWithCarry : Prop :=
  ∀ (s : State) (x y : Reg), decodeWord (wordXYN 0x8#4 x y 4) = .addReg x y ∧
    ∃ t, exec (.addReg x y) s = .next t ∧
      (t.reg x).toNat = ((s.reg x).toNat + (s.reg y).toNat) % 256 ∧
      (x ≠ 15 → (t.reg 15).toNat = if (s.reg x).toNat + (s.reg y).toNat > 255 then 1 else 0) ∧
      advanced 2 s t ∧ frame [x, 15] [.pc] s t

/-- SUB Vx, Vy: `VF` is 1 when no borrow occurs, the difference modulo 256 in `V[X]`, which wins when X is 15 (R148). -/
def Obligations.SubtractWithNoBorrowFlag : Prop :=
  ∀ (s : State) (x y : Reg), decodeWord (wordXYN 0x8#4 x y 5) = .subReg x y ∧
    ∃ t, exec (.subReg x y) s = .next t ∧
      (t.reg x).toNat = ((s.reg x).toNat + 256 - (s.reg y).toNat) % 256 ∧
      (x ≠ 15 → (t.reg 15).toNat = if (s.reg x).toNat ≥ (s.reg y).toNat then 1 else 0) ∧
      advanced 2 s t ∧ frame [x, 15] [.pc] s t

/-- SUBN Vx, Vy: Y - X into `V[X]`, `VF` 1 when no borrow occurs. That the destination is `V[X]` is the spec's decision
D30 (notes/assumptions/13.md). -/
def Obligations.SubtractReversedWithNoBorrowFlag : Prop :=
  ∀ (s : State) (x y : Reg), decodeWord (wordXYN 0x8#4 x y 7) = .subnReg x y ∧
    ∃ t, exec (.subnReg x y) s = .next t ∧
      (t.reg x).toNat = ((s.reg y).toNat + 256 - (s.reg x).toNat) % 256 ∧
      (x ≠ 15 → (t.reg 15).toNat = if (s.reg y).toNat ≥ (s.reg x).toNat then 1 else 0) ∧
      advanced 2 s t ∧ frame [x, 15] [.pc] s t

/-- SHR and SHL: `V[X]` is shifted by one place, `VF` is the bit shifted out, and the field Y decodes and does nothing.
That `V[X]` is the register shifted is the spec's decision D6 (notes/assumptions/13.md). -/
def Obligations.ShiftsMoveBitIntoFlag : Prop :=
  ∀ (s : State) (x y : Reg),
    (decodeWord (wordXYN 0x8#4 x y 6) = .shr x y ∧ ∃ t, exec (.shr x y) s = .next t ∧
      (t.reg x).toNat = (s.reg x).toNat / 2 ∧ (x ≠ 15 → (t.reg 15).toNat = (s.reg x).toNat % 2) ∧
      advanced 2 s t ∧ frame [x, 15] [.pc] s t) ∧
    (decodeWord (wordXYN 0x8#4 x y 14) = .shl x y ∧ ∃ t, exec (.shl x y) s = .next t ∧
      (t.reg x).toNat = (s.reg x).toNat * 2 % 256 ∧ (x ≠ 15 → (t.reg 15).toNat = (s.reg x).toNat / 128) ∧
      advanced 2 s t ∧ frame [x, 15] [.pc] s t)

/-- RND Vx, NN: `V[X]` is the free byte of this draw AND NN, and the next draw is another byte; so only bits of NN can be
set, and NN = 0 gives 0. The form of the free byte is the model's DESIGN CHOICE (notes/assumptions/2.md); nothing is
known of its value. -/
def Obligations.RandomByteIsMasked : Prop :=
  ∀ (s : State) (x : Reg) (nn : Byte), decodeWord (wordXNN 0xC#4 x nn) = .rnd x nn ∧
    ∃ t, exec (.rnd x nn) s = .next t ∧
      (t.reg x).toNat = (Config.rndByte s.rndDraws).toNat &&& nn.toNat ∧
      (∀ k, k < 8 → nn.getLsbD k = false → (t.reg x).getLsbD k = false) ∧
      t.rndDraws = s.rndDraws + 1 ∧ advanced 2 s t ∧ frame [x] [.pc, .draws] s t

/-! ### The index register and memory (43_index_memory.md) -/

/-- LD I, NNN (R170); its pattern ANNN is the source's own. -/
def Obligations.LoadIndex : Prop :=
  ∀ (s : State) (nnn : Addr), decodeWord (wordNNN 0xA#4 nnn) = .ldI nnn ∧
    ∃ t, exec (.ldI nnn) s = .next t ∧ t.i.toNat = nnn.toNat ∧ advanced 2 s t ∧ frame [] [.pc, .index] s t

/-- ADD I, Vx: `VF` says that the full sum exceeds 0xFFF, and `I` keeps the sum modulo 2^16; with X = 15 the old `VF` is
added. The full sum in the flag and the 16 bits of `I` are the spec's decisions D28 and D4 (notes/assumptions/12.md). -/
def Obligations.AddToIndexFlagsOverflow : Prop :=
  ∀ (s : State) (x : Reg), decodeWord (wordXNN 0xF#4 x 0x1E#8) = .addIVx x ∧
    ∃ t, exec (.addIVx x) s = .next t ∧
      t.i.toNat = (s.i.toNat + (s.reg x).toNat) % 65536 ∧
      (t.reg 15).toNat = (if s.i.toNat + (s.reg x).toNat > 0xFFF then 1 else 0) ∧
      advanced 2 s t ∧ frame [15] [.pc, .index] s t

/-- LD F, Vx: five times the digit. No masking above 15 is the spec's decision D10 (notes/assumptions/15.md). -/
def Obligations.GlyphAddressIsFiveTimesDigit : Prop :=
  ∀ (s : State) (x : Reg), decodeWord (wordXNN 0xF#4 x 0x29#8) = .ldFVx x ∧
    ∃ t, exec (.ldFVx x) s = .next t ∧ t.i.toNat = (s.reg x).toNat * 5 ∧
      advanced 2 s t ∧ frame [] [.pc, .index] s t

/-- LD B, Vx: the hundreds, tens and units digits at `I`, `I + 1`, `I + 2`; no other byte changes, nor does `I` (R173). -/
def Obligations.DecimalStore : Prop :=
  ∀ (s : State) (x : Reg), decodeWord (wordXNN 0xF#4 x 0x33#8) = .ldBVx x ∧
    ∃ t, exec (.ldBVx x) s = .next t ∧
      (t.memRead s.i.toNat).toNat = (s.reg x).toNat / 100 ∧
      (t.memRead (s.i.toNat + 1)).toNat = (s.reg x).toNat / 10 % 10 ∧
      (t.memRead (s.i.toNat + 2)).toNat = (s.reg x).toNat % 10 ∧
      (∀ ea, ¬ stored s.i.toNat 3 ea → t.memRead ea = s.memRead ea) ∧
      advanced 2 s t ∧ frame [] [.pc, .memory] s t

/-- LD [I], Vx: `V[0]` to `V[X]` at `I` to `I + X`, no other byte, then `I` moves past them. That `I` wraps modulo 2^16 is
the spec's decision D4 (notes/assumptions/12.md). -/
def Obligations.RegisterDump : Prop :=
  ∀ (s : State) (x : Reg), decodeWord (wordXNN 0xF#4 x 0x55#8) = .ldMemVx x ∧
    ∃ t, exec (.ldMemVx x) s = .next t ∧
      (∀ r : Reg, r.val ≤ x.val → t.memRead (s.i.toNat + r.val) = s.reg r) ∧
      (∀ ea, ¬ stored s.i.toNat (x.val + 1) ea → t.memRead ea = s.memRead ea) ∧
      t.i.toNat = (s.i.toNat + x.val + 1) % 65536 ∧ advanced 2 s t ∧ frame [] [.pc, .index, .memory] s t

/-- LD Vx, [I]: `V[0]` to `V[X]` from `I` to `I + X`, the registers above X unchanged, then `I` moves past them. That `I`
wraps modulo 2^16 is the spec's decision D4 (notes/assumptions/12.md). -/
def Obligations.RegisterLoad : Prop :=
  ∀ (s : State) (x : Reg), decodeWord (wordXNN 0xF#4 x 0x65#8) = .ldVxMem x ∧
    ∃ t, exec (.ldVxMem x) s = .next t ∧
      (∀ r : Reg, t.reg r = if r.val ≤ x.val then s.memRead (s.i.toNat + r.val) else s.reg r) ∧
      t.i.toNat = (s.i.toNat + x.val + 1) % 65536 ∧ advanced 2 s t ∧
      frame (destinations (.ldVxMem x)) [.pc, .index] s t

/-! ### Display (44_display.md) -/

/-- CLS: every cell unlit and `DIRTY` set (R190). -/
def Obligations.ClearDisplay : Prop :=
  ∀ s : State, decodeWord 0x00E0#16 = .cls ∧
    ∃ t, exec .cls s = .next t ∧ (∀ j (h : j < 2048), t.fb[j] = false) ∧ t.dirty = true ∧
      advanced 2 s t ∧ frame [] [.pc, .framebuffer, .dirty] s t

/-- DRW Vx, Vy, N in closed form: each cell of the screen is flipped exactly when the sprite's bit over it is set, `VF`
is 1 exactly when such a cell was lit, and `DIRTY` is set; nothing else changes. Bit 7 leftmost, clipping and the cell's
index are the spec's decisions D7, D8 and D19 (notes/assumptions/14.md). -/
def Obligations.DrawXorsClippedSprite : Prop :=
  ∀ (s : State) (x y : Reg) (n : Fin 16), decodeWord (wordXYN 0xD#4 x y n) = .drw x y n ∧
    ∃ t, exec (.drw x y n) s = .next t ∧
      (∀ (cx : Fin 64) (cy : Fin 32),
        t.cell cx cy = (s.cell cx cy ^^ s.spriteBit (s.reg x).toNat (s.reg y).toNat n.val cx.val cy.val)) ∧
      ((t.reg 15).toNat = 1 ↔ ∃ (cx : Fin 64) (cy : Fin 32), s.cell cx cy = true ∧
        s.spriteBit (s.reg x).toNat (s.reg y).toNat n.val cx.val cy.val = true) ∧
      ((t.reg 15).toNat = 0 ∨ (t.reg 15).toNat = 1) ∧ t.dirty = true ∧
      advanced 2 s t ∧ frame [15] [.pc, .framebuffer, .dirty] s t

/-- Drawing the same sprite twice at the same place restores the framebuffer; on a blank framebuffer the first draw
leaves `VF = 0` and the second sets it exactly when some set bit of the sprite is on the screen (95_test_vectors.md S6, in
the scope of 90_conflicts.md C3). X and Y are not 15, whose value the first draw replaces. -/
def Obligations.DrawTwiceRestores : Prop :=
  ∀ (s : State) (x y : Reg) (n : Fin 16), x ≠ 15 → y ≠ 15 →
    ∃ t u, exec (.drw x y n) s = .next t ∧ exec (.drw x y n) t = .next u ∧ u.fb = s.fb ∧
      ((∀ j (h : j < 2048), s.fb[j] = false) → (t.reg 15).toNat = 0 ∧
        ((u.reg 15).toNat = 1 ↔ ∃ (cx : Fin 64) (cy : Fin 32),
          s.spriteBit (s.reg x).toNat (s.reg y).toNat n.val cx.val cy.val = true))

/-! ### Keypad and timers (45_keypad_timer_io.md) -/

/-- SKP and SKNP skip on the key whose index `V[X]` holds. That an index above 15 is not held is the spec's decision D9
(notes/assumptions/15.md). -/
def Obligations.KeySkips : Prop :=
  ∀ (s : State) (x : Reg),
    (decodeWord (wordXNN 0xE#4 x 0x9E#8) = .skp x ∧ ∃ t, exec (.skp x) s = .next t ∧
      advanced (if ∃ h : (s.reg x).toNat < 16, s.key[(s.reg x).toNat] = true then 4 else 2) s t ∧
      frame [] [.pc] s t) ∧
    (decodeWord (wordXNN 0xE#4 x 0xA1#8) = .sknp x ∧ ∃ t, exec (.sknp x) s = .next t ∧
      advanced (if ∃ h : (s.reg x).toNat < 16, s.key[(s.reg x).toNat] = true then 2 else 4) s t ∧
      frame [] [.pc] s t)

/-- LD Vx, DT reads the delay timer as it stood before the tick of its own step (R212). -/
def Obligations.ReadDelayTimer : Prop :=
  ∀ (s : State) (x : Reg), decodeWord (wordXNN 0xF#4 x 0x07#8) = .ldVxDT x ∧
    (∃ t, exec (.ldVxDT x) s = .next t ∧ t.reg x = s.dt ∧ advanced 2 s t ∧ frame [x] [.pc] s t) ∧
    (decodeWord s.fetch = .ldVxDT x → ∃ t, step s = .next t ∧ t.reg x = s.dt ∧ t.dt.toNat = s.dt.toNat - 1)

/-- LD DT, Vx and LD ST, Vx set a timer, which the tick of the same step counts down; a sound timer set to 1 beeps in that
same step, one set to 0 does not (R214, R215). -/
def Obligations.SetTimers : Prop :=
  ∀ (s : State) (x : Reg),
    (decodeWord (wordXNN 0xF#4 x 0x15#8) = .ldDTVx x ∧
      (∃ t, exec (.ldDTVx x) s = .next t ∧ t.dt = s.reg x ∧ advanced 2 s t ∧ frame [] [.pc, .delayTimer] s t) ∧
      (decodeWord s.fetch = .ldDTVx x → ∃ t, step s = .next t ∧ t.dt.toNat = (s.reg x).toNat - 1)) ∧
    (decodeWord (wordXNN 0xF#4 x 0x18#8) = .ldSTVx x ∧
      (∃ t, exec (.ldSTVx x) s = .next t ∧ t.st = s.reg x ∧ advanced 2 s t ∧ frame [] [.pc, .soundTimer] s t) ∧
      (decodeWord s.fetch = .ldSTVx x → ∃ t, step s = .next t ∧ t.st.toNat = (s.reg x).toNat - 1 ∧
        (t.beep = true ↔ (s.reg x).toNat = 1)))

/-- LD Vx, K: with no key held nothing at all is written and `PC` is held; otherwise the highest held key's index goes to
`V[X]` (R213). -/
def Obligations.WaitForKeyTakesHighestHeld : Prop :=
  ∀ (s : State) (x : Reg), decodeWord (wordXNN 0xF#4 x 0x0A#8) = .ldVxK x ∧
    ((∀ k (h : k < 16), s.key[k] = false) → exec (.ldVxK x) s = .next s) ∧
    (∀ k (h : k < 16), s.key[k] = true → (∀ j (h' : j < 16), k < j → s.key[j] = false) →
      ∃ t, exec (.ldVxK x) s = .next t ∧ (t.reg x).toNat = k ∧ advanced 2 s t ∧ frame [x] [.pc] s t)

/-! ### Diagnostics (40_engine_cycle.md R106, 60_exceptions.md) -/

/-- UNKNOWN: a word that no row takes reports itself and only advances `PC` by 2; the tick still runs (R106). -/
def Obligations.UnknownReportsItsWord : Prop :=
  ∀ (s : State) (w : Word), (∀ r ∈ opcodeRows, r.takes w = false) →
    decodeWord w = .unknown w ∧
    (∃ t, exec (.unknown w) s = .next t ∧ t.result = .diagnostic (.unknownOpcode w) ∧ advanced 2 s t ∧
      frame [] [.pc, .result] s t) ∧
    (s.fetch = w → ∃ t, step s = .next t ∧ t.result = .diagnostic (.unknownOpcode w) ∧ advanced 2 s t ∧
      t.dt.toNat = s.dt.toNat - 1 ∧ t.st.toNat = s.st.toNat - 1)

/-- The result of a step: UNKNOWN, CALL with a full stack and RET with an empty one each report their own diagnostic with
the word fetched, and every other step answers Ok, whatever the step before it reported (R231, R232, R233). The stack
diagnostics are the spec's decisions D12 and D25 (notes/assumptions/15.md); the field that holds the result is the model's
DESIGN CHOICE (notes/assumptions/3.md). -/
def Obligations.DiagnosticsReported : Prop :=
  ∀ s : State, ∃ t, step s = .next t ∧
    t.result =
      match decodeWord s.fetch with
      | .unknown _ => .diagnostic (.unknownOpcode s.fetch)
      | .call _ => if s.sp.val = 16 then .diagnostic (.stackOverflow s.fetch) else .ok
      | .ret => if s.sp.val = 0 then .diagnostic (.stackUnderflow s.fetch) else .ok
      | _ => .ok

/-- Every diagnostic is precise: a step that reports one advances `PC` by 2, runs the tick, leaves the block running, and
changes nothing else (R232). -/
def Obligations.DiagnosticsArePrecise : Prop :=
  ∀ s : State, ∃ t, step s = .next t ∧ (t.result ≠ .ok →
    advanced 2 s t ∧ t.dt.toNat = s.dt.toNat - 1 ∧ t.st.toNat = s.st.toNat - 1 ∧ (t.beep = true ↔ s.st.toNat = 1) ∧
    t.mode = .running ∧ frame [] [.pc, .result, .mode, .beep, .delayTimer, .soundTimer] s t)

/-! ### The state as a whole (10_state.md, 20_memory.md) -/

/-- The reset state meets `Inv`: memory in canonical form, a beep in the latch only with `ST = 0`, a wait for a key only with
the result `Ok`. The values themselves are those of `ResetValues`. That the result is `Ok` is the model's DESIGN CHOICE
(notes/assumptions/4.md), the canonical form of memory too (notes/assumptions/19.md). -/
def Obligations.ResetMeetsInvariant : Prop := Inv State.reset

/-- Every step keeps the invariant, from every state that meets it (R213, R233, R240; the canonical form of memory is the
model's DESIGN CHOICE, notes/assumptions/19.md). -/
def Obligations.StepKeepsInvariant : Prop :=
  ∀ s t : State, Inv s → step s = .next t → Inv t

/-- Every call of the host keeps the invariant (60_exceptions.md, section 4). -/
def Obligations.HostCallsKeepInvariant : Prop :=
  ∀ (s t : State) (c : HostCall) (r : HostReply), Inv s → perform (some s) c = .next (t, r) → Inv t

/-- The reset values (R33): the source's, with the spec's decisions D15 for the stack, `MODE` and `BEEP`, and the default
glyph table (PRESUMED, notes/assumptions/1.md) at 0x000-0x04F. -/
def Obligations.ResetValues : Prop :=
  let s := State.reset
  (∀ r, s.reg r = 0) ∧ s.i = 0 ∧ s.pc = 0x200#16 ∧ s.sp.val = 0 ∧ (∀ k (h : k < 16), s.stack[k] = 0) ∧
  s.dt = 0 ∧ s.st = 0 ∧ (∀ j (h : j < 2048), s.fb[j] = false) ∧ s.dirty = true ∧
  (∀ k (h : k < 16), s.key[k] = false) ∧ s.mode = .running ∧ s.beep = false ∧
  (∀ a (h : a < 80), s.memRead a = defaultGlyphs[a]) ∧ ∀ a, 80 ≤ a → a < 4096 → s.memRead a = 0

/-- Which instructions write what (R21 to R23, R25, R28, R29, R34, and for the bytes of memory R50 and R55): in every step
each register outside the instruction's destinations, and each piece of state outside the lists of its rule, is
unchanged; no step clears `DIRTY`. The timers, `MODE` and `BEEP`, which every step writes, are the matter of
`TimersCountDownEveryStep` and `WaitsExactlyWhenNoKeyHeld`. Two clauses are about the model's own data: the glyph table
that memory carries for the parameter `GLYPHS` of R6 (notes/assumptions/1.md, PRESUMED) and the count of draws
(notes/assumptions/2.md, DESIGN CHOICE). -/
def Obligations.OnlyNamedInstructionsWrite : Prop :=
  ∀ (s : State) (i : Instr), i = decodeWord s.fetch → ∃ t, step s = .next t ∧
    (∀ r, r ∉ destinations i → t.reg r = s.reg r) ∧
    (t.i ≠ s.i → (∃ a, i = .ldI a) ∨ ∃ x, i = .addIVx x ∨ i = .ldFVx x ∨ i = .ldMemVx x ∨ i = .ldVxMem x) ∧
    (t.sp ≠ s.sp ∨ t.stack ≠ s.stack → i = .ret ∨ ∃ a, i = .call a) ∧
    (t.fb ≠ s.fb ∨ t.dirty ≠ s.dirty → i = .cls ∨ ∃ x y n, i = .drw x y n) ∧
    (s.dirty = true → t.dirty = true) ∧ t.key = s.key ∧ t.mem.glyphs = s.mem.glyphs ∧
    ((∃ a, t.memRead a ≠ s.memRead a) → ∃ x, i = .ldBVx x ∨ i = .ldMemVx x) ∧
    (t.rndDraws ≠ s.rndDraws → ∃ x nn, i = .rnd x nn)

/-- No entry of the call stack above the top is ever read: states that agree but for those entries step to states that
agree but for those entries (R25). So the reset value of the entries (the spec's decision D15) cannot be observed. -/
def Obligations.EntriesAboveTopUnobservable : Prop :=
  ∀ s t : State, sameBelowTop s t → ∃ s' t', step s = .next s' ∧ step t = .next t' ∧ sameBelowTop s' t'

/-- `MODE`, `BEEP` and the last result are written by every step and read by none (R30, R31, R107; that a step does not
branch on `MODE` is the spec's decision D13, notes/assumptions/16.md). -/
def Obligations.StepReadsNoModeBeepOrResult : Prop :=
  ∀ (s : State) (m : EngineMode) (b : Bool) (r : StepResult),
    ∃ t, step s = .next t ∧ step { s with mode := m, beep := b, result := r } = .next t

/-- Memories in canonical form with the same glyph table and the same bytes are the same data (the form is the model's
DESIGN CHOICE, notes/assumptions/19.md; the bytes are those of R20). -/
def Obligations.MemoryIsCanonical : Prop :=
  ∀ m n : Memory, m.wf = true → n.wf = true → m.glyphs = n.glyphs →
    (∀ a, a < 4096 → m.get a = n.get a) → m = n

/-! ### Sequences of steps -/

/-- A wait for a key: while no key is held, each step holds `PC`, all registers and all memory, and only the timers count;
after n > 0 steps the block waits, with `DT` and `ST` lower by n and never below zero (R107, R213, R248). -/
def Obligations.BlockedWaitHoldsEverythingButTimers : Prop :=
  ∀ (n : Nat) (s : State) (x : Reg), decodeWord s.fetch = .ldVxK x → (∀ k (h : k < 16), s.key[k] = false) →
    ∃ t, Sys2Proof.core.run (n + 1) s = .next t ∧ t.pc = s.pc ∧ t.mode = .waitingForKey ∧ t.result = .ok ∧
      t.dt.toNat = s.dt.toNat - (n + 1) ∧ t.st.toNat = s.st.toNat - (n + 1) ∧
      (t.beep = true ↔ s.st.toNat = n + 1) ∧
      frame [] [.mode, .beep, .delayTimer, .soundTimer, .result] s t

/-- A wait ends at the first step with a key held: the highest held index is in `V[X]` and the block runs on (R213,
R248). -/
def Obligations.HeldKeyEndsWait : Prop :=
  ∀ (s : State) (x : Reg) (k : Nat) (h : k < 16), decodeWord s.fetch = .ldVxK x → s.key[k] = true →
    ∃ t, step s = .next t ∧ t.mode = .running ∧ advanced 2 s t ∧ k ≤ (t.reg x).toNat ∧
      ∃ h' : (t.reg x).toNat < 16, s.key[(t.reg x).toNat] = true

/-- A call followed at once by a return comes back to the word after the CALL with the stack pointer unchanged, for any
target and any depth below 16 (95_test_vectors.md S9; R120, R122). -/
def Obligations.CallThenReturn : Prop :=
  ∀ (s : State) (nnn : Addr), s.sp.val < 16 → decodeWord s.fetch = .call nnn →
    s.memRead nnn.toNat = 0x00#8 → s.memRead (nnn.toNat + 1) = 0xEE#8 →
    ∃ t, Sys2Proof.core.run 2 s = .next t ∧ advanced 2 s t ∧ t.sp = s.sp ∧ t.result = .ok

/-- Dumping `V[0]` to `V[X]` and loading them back from the same place reproduces them, whatever the registers held in
between (95_test_vectors.md S5; R174, R175). -/
def Obligations.DumpThenLoadRestores : Prop :=
  ∀ (s u : State) (x : Reg), ∃ t, exec (.ldMemVx x) s = .next t ∧
    (u.mem = t.mem → u.i = s.i → ∃ w, exec (.ldVxMem x) u = .next w ∧ ∀ r : Reg, r.val ≤ x.val → w.reg r = s.reg r)

/-- Fetch sees the stores of the step before: `V[0]` and `V[1]` stored by LD [I],Vx over the next word are that word when
it is fetched (R62, R277; the spec's decision D23). -/
def Obligations.StoredWordIsFetchedNext : Prop :=
  ∀ (s : State) (x : Reg), decodeWord s.fetch = .ldMemVx x → 1 ≤ x.val →
    s.i.toNat % 4096 = (s.pc.toNat + 2) % 65536 % 4096 →
    ∃ t, step s = .next t ∧ t.fetch.toNat = (s.reg 0).toNat * 256 + (s.reg 1).toNat

/-- The delay timer counts steps: n steps, none of them an LD DT,Vx, take it down by n and never below zero (R240, R242,
R278). -/
def Obligations.DelayTimerCountsSteps : Prop :=
  ∀ (n : Nat) (s : State),
    (∀ m u, m < n → Sys2Proof.core.run m s = .next u → ∀ x, decodeWord (State.fetch u) ≠ .ldDTVx x) →
    ∃ t, Sys2Proof.core.run n s = .next t ∧ State.dt t = BitVec.ofNat 8 (s.dt.toNat - n)

/-! ### The host's operations (60_exceptions.md, 70_reset_and_hazards.md) -/

/-- `load` copies the bytes to 0x200 and changes nothing else. An empty or odd length is accepted by the spec's decision
D26. -/
def Obligations.LoadCopiesProgram : Prop :=
  ∀ (s : State) (rom : List Byte), rom.length ≤ 3584 →
    ∃ t, perform (some s) (.load (.bytes rom)) = .next (t, .loaded .ok) ∧
      (∀ k (h : k < rom.length), t.memRead (0x200 + k) = rom[k]) ∧
      (∀ a, a < 4096 → (a < 0x200 ∨ 0x200 + rom.length ≤ a) → t.memRead a = s.memRead a) ∧
      frame [] [.memory] s t

/-- A `load` that fails changes nothing: a sequence longer than 3584 bytes (R272), or one that cannot be obtained (R273),
which the block receives as a token by the spec's decision D26. -/
def Obligations.FailedLoadChangesNothing : Prop :=
  ∀ (s : State) (rom : List Byte),
    (rom.length > 3584 → perform (some s) (.load (.bytes rom)) = .next (s, .loaded .romTooLarge)) ∧
    perform (some s) (.load .unavailable) = .next (s, .loaded .sourceUnavailable)

/-- `initialize` resets every piece of state from any state, with the block's own glyph table (R270; the values of the
stack, `MODE` and `BEEP` are the spec's decision D15, the count of draws kept is the model's DESIGN CHOICE,
notes/assumptions/5.md). -/
def Obligations.InitializeResetsEverything : Prop :=
  ∀ s : State, ∃ t, perform (some s) .init = .next (t, .none) ∧
    t = { State.reset with mem := t.mem, rndDraws := s.rndDraws } ∧ t.mem.glyphs = s.mem.glyphs ∧
    (∀ a (h : a < 80), t.memRead a = s.mem.glyphs[a]) ∧ ∀ a, 80 ≤ a → a < 4096 → t.memRead a = 0

/-- Before the first `initialize` every other call is refused, and that call gives the reset state (R274, R275; the
refusal is the spec's decision D20). -/
def Obligations.NothingBeforeInitialize : Prop :=
  perform none .init = .next (State.reset, .none) ∧
  ∀ c : HostCall, c ≠ .init → perform none c = .refused .notInitialized

/-- The boundary calls: reading the framebuffer and `DIRTY` changes nothing; `clear_dirty` clears `DIRTY` alone; `set_key`
sets one key alone and is refused above 15; `beep_events` answers the latch once and clears it alone (R241, R245, R246;
the latch and the refusal are the spec's decisions D14 and D27). Observing `MODE` changes nothing (R34, where the host's
access is the spec's decision D13); that it is a call is the model's DESIGN CHOICE (notes/assumptions/8.md). -/
def Obligations.BoundaryCalls : Prop :=
  ∀ (s : State) (k : Nat) (b : Bool),
    perform (some s) .framebuffer = .next (s, .grid s.fb) ∧ perform (some s) .isDirty = .next (s, .flag s.dirty) ∧
    perform (some s) .engineMode = .next (s, .observed s.mode) ∧
    (∃ t, perform (some s) .clearDirty = .next (t, .none) ∧ t.dirty = false ∧ frame [] [.dirty] s t) ∧
    (k < 16 → ∃ t, perform (some s) (.setKey k b) = .next (t, .none) ∧
      (∀ j (h : j < 16), t.key[j] = if j = k then b else s.key[j]) ∧ frame [] [.keypad] s t) ∧
    (16 ≤ k → perform (some s) (.setKey k b) = .refused (.keyIndexOutOfRange k)) ∧
    (∃ t, perform (some s) .beepEvents = .next (t, .notifications (if s.beep then 1 else 0)) ∧ t.beep = false ∧
      frame [] [.beep] s t ∧ perform (some t) .beepEvents = .next (t, .notifications 0))
end

