-- ==== Sys2Proof/Laws/Decode.lean ====
section
/-! SUPPORT. The laws of fields and patterns: a word of a pattern as a number, its fields, its decoding, and bytes and
words. -/

namespace Sys2Proof

/-! ### Fields and concatenation as arithmetic (R7) -/

theorem toNat_append_arith {m n : Nat} (a : BitVec m) (b : BitVec n) :
    (a ++ b).toNat = a.toNat * 2 ^ n + b.toNat := by
  rw [BitVec.toNat_append, ← Nat.shiftLeft_add_eq_or_of_lt b.isLt, Nat.shiftLeft_eq]

theorem familyField_eq (w : Word) : familyField w = w.toNat / 4096 := by
  have := w.isLt
  simp only [familyField, BitVec.extractLsb'_toNat, Nat.shiftRight_eq_div_pow]
  omega

theorem xField_val (w : Word) : (xField w).val = w.toNat / 256 % 16 := by
  simp [xField, Nat.shiftRight_eq_div_pow]

theorem yField_val (w : Word) : (yField w).val = w.toNat / 16 % 16 := by
  simp [yField, Nat.shiftRight_eq_div_pow]

theorem nField_val (w : Word) : (nField w).val = w.toNat % 16 := by
  simp [nField]

theorem nnField_toNat (w : Word) : (nnField w).toNat = w.toNat % 256 := by
  simp [nnField, BitVec.extractLsb'_toNat]

theorem nnnField_toNat (w : Word) : (nnnField w).toNat = w.toNat % 4096 := by
  simp [nnnField, BitVec.extractLsb'_toNat]

/-! ### The three patterns as numbers -/

theorem wordNNN_toNat (f : BitVec 4) (nnn : Addr) : (wordNNN f nnn).toNat = f.toNat * 4096 + nnn.toNat :=
  toNat_append_arith f nnn

theorem wordXNN_toNat (f : BitVec 4) (x : Reg) (nn : Byte) :
    (wordXNN f x nn).toNat = f.toNat * 4096 + x.val * 256 + nn.toNat := by
  refine (toNat_append_arith _ nn).trans ?_
  rw [toNat_append_arith]
  simp only [BitVec.toNat_ofFin]; omega

theorem wordXYN_toNat (f : BitVec 4) (x y : Reg) (n : Fin 16) :
    (wordXYN f x y n).toNat = f.toNat * 4096 + x.val * 256 + y.val * 16 + n.val := by
  refine (toNat_append_arith _ _).trans ?_
  rw [toNat_append_arith, toNat_append_arith]
  simp only [BitVec.toNat_ofFin]; omega

/-! ### The fields of each pattern -/

@[simp] theorem familyField_wordNNN (f : BitVec 4) (nnn : Addr) : familyField (wordNNN f nnn) = f.toNat := by
  have := nnn.isLt; rw [familyField_eq, wordNNN_toNat]; omega

@[simp] theorem nnnField_wordNNN (f : BitVec 4) (nnn : Addr) : nnnField (wordNNN f nnn) = nnn := by
  have := nnn.isLt; apply BitVec.eq_of_toNat_eq; rw [nnnField_toNat, wordNNN_toNat]; omega

@[simp] theorem familyField_wordXNN (f : BitVec 4) (x : Reg) (nn : Byte) :
    familyField (wordXNN f x nn) = f.toNat := by
  have := nn.isLt; rw [familyField_eq, wordXNN_toNat]; omega

@[simp] theorem xField_wordXNN (f : BitVec 4) (x : Reg) (nn : Byte) : xField (wordXNN f x nn) = x := by
  have := nn.isLt; apply Fin.ext; rw [xField_val, wordXNN_toNat]; omega

@[simp] theorem nnField_wordXNN (f : BitVec 4) (x : Reg) (nn : Byte) : nnField (wordXNN f x nn) = nn := by
  have := nn.isLt; apply BitVec.eq_of_toNat_eq; rw [nnField_toNat, wordXNN_toNat]; omega

@[simp] theorem familyField_wordXYN (f : BitVec 4) (x y : Reg) (n : Fin 16) :
    familyField (wordXYN f x y n) = f.toNat := by
  rw [familyField_eq, wordXYN_toNat]; omega

@[simp] theorem xField_wordXYN (f : BitVec 4) (x y : Reg) (n : Fin 16) : xField (wordXYN f x y n) = x := by
  apply Fin.ext; rw [xField_val, wordXYN_toNat]; omega

@[simp] theorem yField_wordXYN (f : BitVec 4) (x y : Reg) (n : Fin 16) : yField (wordXYN f x y n) = y := by
  apply Fin.ext; rw [yField_val, wordXYN_toNat]; omega

@[simp] theorem nField_wordXYN (f : BitVec 4) (x y : Reg) (n : Fin 16) : nField (wordXYN f x y n) = n := by
  apply Fin.ext; rw [nField_val, wordXYN_toNat]; omega

/-! ### A word is made of its fields -/

theorem wordNNN_fields {w : Word} {f : BitVec 4} (hf : familyField w = f.toNat) : wordNNN f (nnnField w) = w := by
  apply BitVec.eq_of_toNat_eq
  rw [familyField_eq] at hf
  rw [wordNNN_toNat, nnnField_toNat]; omega

theorem wordXNN_fields {w : Word} {f : BitVec 4} {nn : Byte} (hf : familyField w = f.toNat)
    (hn : (nnField w).toNat = nn.toNat) : wordXNN f (xField w) nn = w := by
  apply BitVec.eq_of_toNat_eq
  rw [familyField_eq] at hf; rw [nnField_toNat] at hn
  rw [wordXNN_toNat, xField_val]; omega

theorem wordXYN_fields {w : Word} {f : BitVec 4} {n : Fin 16} (hf : familyField w = f.toNat)
    (hn : (nField w).val = n.val) : wordXYN f (xField w) (yField w) n = w := by
  apply BitVec.eq_of_toNat_eq
  rw [familyField_eq] at hf; rw [nField_val] at hn
  rw [wordXYN_toNat, xField_val, yField_val]; omega

/-! ### Bytes and words (R51) -/

@[simp] theorem wordOfBytes_toNat (hi lo : Byte) : (wordOfBytes hi lo).toNat = hi.toNat * 256 + lo.toNat :=
  toNat_append_arith hi lo

@[simp] theorem wordOfBytes_bytesOfWord (w : Word) : wordOfBytes (highByte w) (lowByte w) = w := by
  apply BitVec.eq_of_toNat_eq
  have := w.isLt
  simp only [wordOfBytes_toNat, highByte, lowByte, BitVec.extractLsb'_toNat, Nat.shiftRight_eq_div_pow]
  omega

@[simp] theorem highByte_wordOfBytes (hi lo : Byte) : highByte (wordOfBytes hi lo) = hi := by
  apply BitVec.eq_of_toNat_eq
  have := hi.isLt; have := lo.isLt
  simp only [wordOfBytes_toNat, highByte, BitVec.extractLsb'_toNat, Nat.shiftRight_eq_div_pow]
  omega

@[simp] theorem lowByte_wordOfBytes (hi lo : Byte) : lowByte (wordOfBytes hi lo) = lo := by
  apply BitVec.eq_of_toNat_eq
  have := lo.isLt
  simp only [wordOfBytes_toNat, lowByte, BitVec.extractLsb'_toNat, Nat.shiftRight_eq_div_pow]
  omega

/-- The decoder of bytes reads a word's bytes as that word. -/
theorem decode_bytesOfWord (w : Word) (rest : List Byte) : decode (bytesOfWord w ++ rest) = .ok (decodeWord w, rest) := by
  simp [bytesOfWord, decode]

/-! ### When a row takes a word, by the row's mask (R73) -/

theorem familyField_ofNat (n : Nat) : familyField (BitVec.ofNat 16 n) = n % 65536 / 4096 := by
  rw [familyField_eq, BitVec.toNat_ofNat]

theorem nnnField_ofNat (n : Nat) : nnnField (BitVec.ofNat 16 n) = BitVec.ofNat 12 (n % 65536) := by
  apply BitVec.eq_of_toNat_eq; rw [nnnField_toNat, BitVec.toNat_ofNat, BitVec.toNat_ofNat]

theorem nField_ofNat (n : Nat) : nField (BitVec.ofNat 16 n) = Fin.ofNat 16 (n % 65536) := by
  apply Fin.ext; rw [nField_val, BitVec.toNat_ofNat]; rfl

theorem nnField_ofNat (n : Nat) : nnField (BitVec.ofNat 16 n) = BitVec.ofNat 8 (n % 65536) := by
  apply BitVec.eq_of_toNat_eq; rw [nnField_toNat, BitVec.toNat_ofNat, BitVec.toNat_ofNat]

/-- The family bits of a word. -/
theorem and_F000_toNat (w : Word) : (w &&& 0xF000#16).toNat = w.toNat / 4096 * 4096 := by
  have h : w &&& 0xF000#16 = (w >>> 12) <<< 12 := by
    apply BitVec.eq_of_getLsbD_eq
    intro i hi
    interval_cases i <;> simp
  have := w.isLt
  rw [h]
  simp only [BitVec.toNat_shiftLeft, BitVec.toNat_ushiftRight, Nat.shiftRight_eq_div_pow, Nat.shiftLeft_eq]
  omega

/-- The low bits of a word. -/
theorem and_low_toNat (w : Word) {k : Nat} (hk : k < 16) :
    (w &&& BitVec.ofNat 16 (2 ^ k - 1)).toNat = w.toNat % 2 ^ k := by
  have : 2 ^ k < 2 ^ 16 := Nat.pow_lt_pow_right (by decide) hk
  rw [BitVec.toNat_and, BitVec.toNat_ofNat, Nat.mod_eq_of_lt (by omega), Nat.and_two_pow_sub_one_eq_mod]

/-- The family and the low bits of a word. -/
theorem and_highLow_toNat (w : Word) {k : Nat} (hk : k ≤ 12) :
    (w &&& (0xF000#16 ||| BitVec.ofNat 16 (2 ^ k - 1))).toNat = w.toNat / 4096 * 4096 + w.toNat % 2 ^ k := by
  have hlt : w.toNat % 2 ^ k < 2 ^ 12 :=
    Nat.lt_of_lt_of_le (Nat.mod_lt _ (Nat.two_pow_pos k)) (Nat.pow_le_pow_right (by decide) hk)
  rw [BitVec.and_or_distrib_left, BitVec.toNat_or, and_F000_toNat, and_low_toNat w (by omega)]
  have := Nat.shiftLeft_add_eq_or_of_lt hlt (w.toNat / 4096)
  rw [Nat.shiftLeft_eq] at this
  exact this.symm

/-- Equal words are equal numbers. -/
theorem beq_toNat (a b : Word) : (a == b) = decide (a.toNat = b.toNat) := by
  rw [Bool.eq_iff_iff, beq_iff_eq, decide_eq_true_eq, BitVec.toNat_inj]

/-- A row with the family alone fixed. -/
theorem takes_F000 (w p : Word) (m : String) (hp : p.toNat % 4096 = 0) :
    OpcodeRow.takes ⟨m, 0xF000#16, p⟩ w = decide (familyField w = familyField p) := by
  have e := and_highLow_toNat w (k := 0) (by decide)
  have e0 : (0xF000#16 ||| BitVec.ofNat 16 (2 ^ 0 - 1)) = 0xF000#16 := rfl
  have := p.isLt
  rw [e0] at e
  simp only [OpcodeRow.takes, beq_toNat, e, familyField_eq, decide_eq_decide]
  omega

/-- A row with the family and the low nibble fixed. -/
theorem takes_F00F (w p : Word) (m : String) (hp : p.toNat % 4096 < 16) :
    OpcodeRow.takes ⟨m, 0xF00F#16, p⟩ w = (decide (familyField w = familyField p) && decide (nField w = nField p)) := by
  have e := and_highLow_toNat w (k := 4) (by decide)
  have e0 : (0xF000#16 ||| BitVec.ofNat 16 (2 ^ 4 - 1)) = 0xF00F#16 := rfl
  have := p.isLt
  rw [e0] at e
  simp only [OpcodeRow.takes, beq_toNat, e, familyField_eq, Fin.ext_iff, nField_val, ← Bool.decide_and, decide_eq_decide]
  omega

/-- A row with the family and the low byte fixed. -/
theorem takes_F0FF (w p : Word) (m : String) (hp : p.toNat % 4096 < 256) :
    OpcodeRow.takes ⟨m, 0xF0FF#16, p⟩ w = (decide (familyField w = familyField p) && decide (nnField w = nnField p)) := by
  have e := and_highLow_toNat w (k := 8) (by decide)
  have e0 : (0xF000#16 ||| BitVec.ofNat 16 (2 ^ 8 - 1)) = 0xF0FF#16 := rfl
  have := p.isLt
  rw [e0] at e
  simp only [OpcodeRow.takes, beq_toNat, e, familyField_eq, ← BitVec.toNat_inj, nnField_toNat, ← Bool.decide_and, decide_eq_decide]
  omega

/-- A row with every bit fixed. -/
theorem takes_FFFF (w p : Word) (m : String) :
    OpcodeRow.takes ⟨m, 0xFFFF#16, p⟩ w = (decide (familyField w = familyField p) && decide (nnnField w = nnnField p)) := by
  have e : w &&& 0xFFFF#16 = w := BitVec.and_allOnes
  simp only [OpcodeRow.takes, e, beq_toNat, familyField_eq, ← BitVec.toNat_inj, nnnField_toNat, ← Bool.decide_and,
    decide_eq_decide]
  omega

end Sys2Proof
end

