-- ==== Sys2Proof/Laws/State.lean ====
section
/-! SUPPORT. One lemma per field per named update of the state, so that no later proof unfolds a record update, and the
same for the reads `reg`, `memRead` and `held`. -/

namespace Sys2Proof.Machine

variable (s : State)

/-! ### `setReg` -/

@[simp] theorem setReg_v (x : Reg) (b : Byte) : (s.setReg x b).v = s.v.set x b := rfl
@[simp] theorem setReg_i (x : Reg) (b : Byte) : (s.setReg x b).i = s.i := rfl
@[simp] theorem setReg_pc (x : Reg) (b : Byte) : (s.setReg x b).pc = s.pc := rfl
@[simp] theorem setReg_sp (x : Reg) (b : Byte) : (s.setReg x b).sp = s.sp := rfl
@[simp] theorem setReg_stack (x : Reg) (b : Byte) : (s.setReg x b).stack = s.stack := rfl
@[simp] theorem setReg_dt (x : Reg) (b : Byte) : (s.setReg x b).dt = s.dt := rfl
@[simp] theorem setReg_st (x : Reg) (b : Byte) : (s.setReg x b).st = s.st := rfl
@[simp] theorem setReg_fb (x : Reg) (b : Byte) : (s.setReg x b).fb = s.fb := rfl
@[simp] theorem setReg_dirty (x : Reg) (b : Byte) : (s.setReg x b).dirty = s.dirty := rfl
@[simp] theorem setReg_key (x : Reg) (b : Byte) : (s.setReg x b).key = s.key := rfl
@[simp] theorem setReg_mode (x : Reg) (b : Byte) : (s.setReg x b).mode = s.mode := rfl
@[simp] theorem setReg_beep (x : Reg) (b : Byte) : (s.setReg x b).beep = s.beep := rfl
@[simp] theorem setReg_mem (x : Reg) (b : Byte) : (s.setReg x b).mem = s.mem := rfl
@[simp] theorem setReg_result (x : Reg) (b : Byte) : (s.setReg x b).result = s.result := rfl
@[simp] theorem setReg_rndDraws (x : Reg) (b : Byte) : (s.setReg x b).rndDraws = s.rndDraws := rfl
@[simp] theorem setReg_memRead (x : Reg) (b : Byte) (ea : Nat) : (s.setReg x b).memRead ea = s.memRead ea := rfl
@[simp] theorem setReg_held (x : Reg) (b : Byte) (k : Nat) : (s.setReg x b).held k = s.held k := rfl

/-! ### `setIndex` -/

@[simp] theorem setIndex_v (w : Word) : (s.setIndex w).v = s.v := rfl
@[simp] theorem setIndex_i (w : Word) : (s.setIndex w).i = w := rfl
@[simp] theorem setIndex_pc (w : Word) : (s.setIndex w).pc = s.pc := rfl
@[simp] theorem setIndex_sp (w : Word) : (s.setIndex w).sp = s.sp := rfl
@[simp] theorem setIndex_stack (w : Word) : (s.setIndex w).stack = s.stack := rfl
@[simp] theorem setIndex_dt (w : Word) : (s.setIndex w).dt = s.dt := rfl
@[simp] theorem setIndex_st (w : Word) : (s.setIndex w).st = s.st := rfl
@[simp] theorem setIndex_fb (w : Word) : (s.setIndex w).fb = s.fb := rfl
@[simp] theorem setIndex_dirty (w : Word) : (s.setIndex w).dirty = s.dirty := rfl
@[simp] theorem setIndex_key (w : Word) : (s.setIndex w).key = s.key := rfl
@[simp] theorem setIndex_mode (w : Word) : (s.setIndex w).mode = s.mode := rfl
@[simp] theorem setIndex_beep (w : Word) : (s.setIndex w).beep = s.beep := rfl
@[simp] theorem setIndex_mem (w : Word) : (s.setIndex w).mem = s.mem := rfl
@[simp] theorem setIndex_result (w : Word) : (s.setIndex w).result = s.result := rfl
@[simp] theorem setIndex_rndDraws (w : Word) : (s.setIndex w).rndDraws = s.rndDraws := rfl
@[simp] theorem setIndex_reg (w : Word) (r : Reg) : (s.setIndex w).reg r = s.reg r := rfl
@[simp] theorem setIndex_memRead (w : Word) (ea : Nat) : (s.setIndex w).memRead ea = s.memRead ea := rfl
@[simp] theorem setIndex_held (w : Word) (k : Nat) : (s.setIndex w).held k = s.held k := rfl

/-! ### `setDelayTimer` -/

@[simp] theorem setDelayTimer_v (b : Byte) : (s.setDelayTimer b).v = s.v := rfl
@[simp] theorem setDelayTimer_i (b : Byte) : (s.setDelayTimer b).i = s.i := rfl
@[simp] theorem setDelayTimer_pc (b : Byte) : (s.setDelayTimer b).pc = s.pc := rfl
@[simp] theorem setDelayTimer_sp (b : Byte) : (s.setDelayTimer b).sp = s.sp := rfl
@[simp] theorem setDelayTimer_stack (b : Byte) : (s.setDelayTimer b).stack = s.stack := rfl
@[simp] theorem setDelayTimer_dt (b : Byte) : (s.setDelayTimer b).dt = b := rfl
@[simp] theorem setDelayTimer_st (b : Byte) : (s.setDelayTimer b).st = s.st := rfl
@[simp] theorem setDelayTimer_fb (b : Byte) : (s.setDelayTimer b).fb = s.fb := rfl
@[simp] theorem setDelayTimer_dirty (b : Byte) : (s.setDelayTimer b).dirty = s.dirty := rfl
@[simp] theorem setDelayTimer_key (b : Byte) : (s.setDelayTimer b).key = s.key := rfl
@[simp] theorem setDelayTimer_mode (b : Byte) : (s.setDelayTimer b).mode = s.mode := rfl
@[simp] theorem setDelayTimer_beep (b : Byte) : (s.setDelayTimer b).beep = s.beep := rfl
@[simp] theorem setDelayTimer_mem (b : Byte) : (s.setDelayTimer b).mem = s.mem := rfl
@[simp] theorem setDelayTimer_result (b : Byte) : (s.setDelayTimer b).result = s.result := rfl
@[simp] theorem setDelayTimer_rndDraws (b : Byte) : (s.setDelayTimer b).rndDraws = s.rndDraws := rfl
@[simp] theorem setDelayTimer_reg (b : Byte) (r : Reg) : (s.setDelayTimer b).reg r = s.reg r := rfl
@[simp] theorem setDelayTimer_memRead (b : Byte) (ea : Nat) : (s.setDelayTimer b).memRead ea = s.memRead ea := rfl
@[simp] theorem setDelayTimer_held (b : Byte) (k : Nat) : (s.setDelayTimer b).held k = s.held k := rfl

/-! ### `setSoundTimer` -/

@[simp] theorem setSoundTimer_v (b : Byte) : (s.setSoundTimer b).v = s.v := rfl
@[simp] theorem setSoundTimer_i (b : Byte) : (s.setSoundTimer b).i = s.i := rfl
@[simp] theorem setSoundTimer_pc (b : Byte) : (s.setSoundTimer b).pc = s.pc := rfl
@[simp] theorem setSoundTimer_sp (b : Byte) : (s.setSoundTimer b).sp = s.sp := rfl
@[simp] theorem setSoundTimer_stack (b : Byte) : (s.setSoundTimer b).stack = s.stack := rfl
@[simp] theorem setSoundTimer_dt (b : Byte) : (s.setSoundTimer b).dt = s.dt := rfl
@[simp] theorem setSoundTimer_st (b : Byte) : (s.setSoundTimer b).st = b := rfl
@[simp] theorem setSoundTimer_fb (b : Byte) : (s.setSoundTimer b).fb = s.fb := rfl
@[simp] theorem setSoundTimer_dirty (b : Byte) : (s.setSoundTimer b).dirty = s.dirty := rfl
@[simp] theorem setSoundTimer_key (b : Byte) : (s.setSoundTimer b).key = s.key := rfl
@[simp] theorem setSoundTimer_mode (b : Byte) : (s.setSoundTimer b).mode = s.mode := rfl
@[simp] theorem setSoundTimer_beep (b : Byte) : (s.setSoundTimer b).beep = s.beep := rfl
@[simp] theorem setSoundTimer_mem (b : Byte) : (s.setSoundTimer b).mem = s.mem := rfl
@[simp] theorem setSoundTimer_result (b : Byte) : (s.setSoundTimer b).result = s.result := rfl
@[simp] theorem setSoundTimer_rndDraws (b : Byte) : (s.setSoundTimer b).rndDraws = s.rndDraws := rfl
@[simp] theorem setSoundTimer_reg (b : Byte) (r : Reg) : (s.setSoundTimer b).reg r = s.reg r := rfl
@[simp] theorem setSoundTimer_memRead (b : Byte) (ea : Nat) : (s.setSoundTimer b).memRead ea = s.memRead ea := rfl
@[simp] theorem setSoundTimer_held (b : Byte) (k : Nat) : (s.setSoundTimer b).held k = s.held k := rfl

/-! ### `jumpTo` -/

@[simp] theorem jumpTo_v (w : Word) : (s.jumpTo w).v = s.v := rfl
@[simp] theorem jumpTo_i (w : Word) : (s.jumpTo w).i = s.i := rfl
@[simp] theorem jumpTo_pc (w : Word) : (s.jumpTo w).pc = w := rfl
@[simp] theorem jumpTo_sp (w : Word) : (s.jumpTo w).sp = s.sp := rfl
@[simp] theorem jumpTo_stack (w : Word) : (s.jumpTo w).stack = s.stack := rfl
@[simp] theorem jumpTo_dt (w : Word) : (s.jumpTo w).dt = s.dt := rfl
@[simp] theorem jumpTo_st (w : Word) : (s.jumpTo w).st = s.st := rfl
@[simp] theorem jumpTo_fb (w : Word) : (s.jumpTo w).fb = s.fb := rfl
@[simp] theorem jumpTo_dirty (w : Word) : (s.jumpTo w).dirty = s.dirty := rfl
@[simp] theorem jumpTo_key (w : Word) : (s.jumpTo w).key = s.key := rfl
@[simp] theorem jumpTo_mode (w : Word) : (s.jumpTo w).mode = s.mode := rfl
@[simp] theorem jumpTo_beep (w : Word) : (s.jumpTo w).beep = s.beep := rfl
@[simp] theorem jumpTo_mem (w : Word) : (s.jumpTo w).mem = s.mem := rfl
@[simp] theorem jumpTo_result (w : Word) : (s.jumpTo w).result = s.result := rfl
@[simp] theorem jumpTo_rndDraws (w : Word) : (s.jumpTo w).rndDraws = s.rndDraws := rfl
@[simp] theorem jumpTo_reg (w : Word) (r : Reg) : (s.jumpTo w).reg r = s.reg r := rfl
@[simp] theorem jumpTo_memRead (w : Word) (ea : Nat) : (s.jumpTo w).memRead ea = s.memRead ea := rfl
@[simp] theorem jumpTo_held (w : Word) (k : Nat) : (s.jumpTo w).held k = s.held k := rfl

/-! ### `advance` -/

@[simp] theorem advance_v : (s.advance).v = s.v := rfl
@[simp] theorem advance_i : (s.advance).i = s.i := rfl
@[simp] theorem advance_pc : (s.advance).pc = s.pc + 2 := rfl
@[simp] theorem advance_sp : (s.advance).sp = s.sp := rfl
@[simp] theorem advance_stack : (s.advance).stack = s.stack := rfl
@[simp] theorem advance_dt : (s.advance).dt = s.dt := rfl
@[simp] theorem advance_st : (s.advance).st = s.st := rfl
@[simp] theorem advance_fb : (s.advance).fb = s.fb := rfl
@[simp] theorem advance_dirty : (s.advance).dirty = s.dirty := rfl
@[simp] theorem advance_key : (s.advance).key = s.key := rfl
@[simp] theorem advance_mode : (s.advance).mode = s.mode := rfl
@[simp] theorem advance_beep : (s.advance).beep = s.beep := rfl
@[simp] theorem advance_mem : (s.advance).mem = s.mem := rfl
@[simp] theorem advance_result : (s.advance).result = s.result := rfl
@[simp] theorem advance_rndDraws : (s.advance).rndDraws = s.rndDraws := rfl
@[simp] theorem advance_reg (r : Reg) : (s.advance).reg r = s.reg r := rfl
@[simp] theorem advance_memRead (ea : Nat) : (s.advance).memRead ea = s.memRead ea := rfl
@[simp] theorem advance_held (k : Nat) : (s.advance).held k = s.held k := rfl

/-! ### `skipIf` -/

@[simp] theorem skipIf_v (c : Bool) : (s.skipIf c).v = s.v := rfl
@[simp] theorem skipIf_i (c : Bool) : (s.skipIf c).i = s.i := rfl
@[simp] theorem skipIf_pc (c : Bool) : (s.skipIf c).pc = if c then s.pc + 4 else s.pc + 2 := rfl
@[simp] theorem skipIf_sp (c : Bool) : (s.skipIf c).sp = s.sp := rfl
@[simp] theorem skipIf_stack (c : Bool) : (s.skipIf c).stack = s.stack := rfl
@[simp] theorem skipIf_dt (c : Bool) : (s.skipIf c).dt = s.dt := rfl
@[simp] theorem skipIf_st (c : Bool) : (s.skipIf c).st = s.st := rfl
@[simp] theorem skipIf_fb (c : Bool) : (s.skipIf c).fb = s.fb := rfl
@[simp] theorem skipIf_dirty (c : Bool) : (s.skipIf c).dirty = s.dirty := rfl
@[simp] theorem skipIf_key (c : Bool) : (s.skipIf c).key = s.key := rfl
@[simp] theorem skipIf_mode (c : Bool) : (s.skipIf c).mode = s.mode := rfl
@[simp] theorem skipIf_beep (c : Bool) : (s.skipIf c).beep = s.beep := rfl
@[simp] theorem skipIf_mem (c : Bool) : (s.skipIf c).mem = s.mem := rfl
@[simp] theorem skipIf_result (c : Bool) : (s.skipIf c).result = s.result := rfl
@[simp] theorem skipIf_rndDraws (c : Bool) : (s.skipIf c).rndDraws = s.rndDraws := rfl
@[simp] theorem skipIf_reg (c : Bool) (r : Reg) : (s.skipIf c).reg r = s.reg r := rfl
@[simp] theorem skipIf_memRead (c : Bool) (ea : Nat) : (s.skipIf c).memRead ea = s.memRead ea := rfl
@[simp] theorem skipIf_held (c : Bool) (k : Nat) : (s.skipIf c).held k = s.held k := rfl

/-! ### `push` -/

@[simp] theorem push_v (w : Word) (h : s.sp.val < 16) : (s.push w h).v = s.v := rfl
@[simp] theorem push_i (w : Word) (h : s.sp.val < 16) : (s.push w h).i = s.i := rfl
@[simp] theorem push_pc (w : Word) (h : s.sp.val < 16) : (s.push w h).pc = s.pc := rfl
@[simp] theorem push_sp (w : Word) (h : s.sp.val < 16) : (s.push w h).sp = ⟨s.sp.val + 1, by omega⟩ := rfl
@[simp] theorem push_stack (w : Word) (h : s.sp.val < 16) : (s.push w h).stack = s.stack.set s.sp.val w := rfl
@[simp] theorem push_dt (w : Word) (h : s.sp.val < 16) : (s.push w h).dt = s.dt := rfl
@[simp] theorem push_st (w : Word) (h : s.sp.val < 16) : (s.push w h).st = s.st := rfl
@[simp] theorem push_fb (w : Word) (h : s.sp.val < 16) : (s.push w h).fb = s.fb := rfl
@[simp] theorem push_dirty (w : Word) (h : s.sp.val < 16) : (s.push w h).dirty = s.dirty := rfl
@[simp] theorem push_key (w : Word) (h : s.sp.val < 16) : (s.push w h).key = s.key := rfl
@[simp] theorem push_mode (w : Word) (h : s.sp.val < 16) : (s.push w h).mode = s.mode := rfl
@[simp] theorem push_beep (w : Word) (h : s.sp.val < 16) : (s.push w h).beep = s.beep := rfl
@[simp] theorem push_mem (w : Word) (h : s.sp.val < 16) : (s.push w h).mem = s.mem := rfl
@[simp] theorem push_result (w : Word) (h : s.sp.val < 16) : (s.push w h).result = s.result := rfl
@[simp] theorem push_rndDraws (w : Word) (h : s.sp.val < 16) : (s.push w h).rndDraws = s.rndDraws := rfl
@[simp] theorem push_reg (w : Word) (h : s.sp.val < 16) (r : Reg) : (s.push w h).reg r = s.reg r := rfl
@[simp] theorem push_memRead (w : Word) (h : s.sp.val < 16) (ea : Nat) : (s.push w h).memRead ea = s.memRead ea := rfl
@[simp] theorem push_held (w : Word) (h : s.sp.val < 16) (k : Nat) : (s.push w h).held k = s.held k := rfl

/-! ### `pop` -/

@[simp] theorem pop_v : (s.pop).v = s.v := rfl
@[simp] theorem pop_i : (s.pop).i = s.i := rfl
@[simp] theorem pop_pc : (s.pop).pc = s.pc := rfl
@[simp] theorem pop_sp : (s.pop).sp = ⟨s.sp.val - 1, by omega⟩ := rfl
@[simp] theorem pop_stack : (s.pop).stack = s.stack := rfl
@[simp] theorem pop_dt : (s.pop).dt = s.dt := rfl
@[simp] theorem pop_st : (s.pop).st = s.st := rfl
@[simp] theorem pop_fb : (s.pop).fb = s.fb := rfl
@[simp] theorem pop_dirty : (s.pop).dirty = s.dirty := rfl
@[simp] theorem pop_key : (s.pop).key = s.key := rfl
@[simp] theorem pop_mode : (s.pop).mode = s.mode := rfl
@[simp] theorem pop_beep : (s.pop).beep = s.beep := rfl
@[simp] theorem pop_mem : (s.pop).mem = s.mem := rfl
@[simp] theorem pop_result : (s.pop).result = s.result := rfl
@[simp] theorem pop_rndDraws : (s.pop).rndDraws = s.rndDraws := rfl
@[simp] theorem pop_reg (r : Reg) : (s.pop).reg r = s.reg r := rfl
@[simp] theorem pop_memRead (ea : Nat) : (s.pop).memRead ea = s.memRead ea := rfl
@[simp] theorem pop_held (k : Nat) : (s.pop).held k = s.held k := rfl

/-! ### `raiseDiagnostic` -/

@[simp] theorem raiseDiagnostic_v (d : Diagnostic) : (s.raiseDiagnostic d).v = s.v := rfl
@[simp] theorem raiseDiagnostic_i (d : Diagnostic) : (s.raiseDiagnostic d).i = s.i := rfl
@[simp] theorem raiseDiagnostic_pc (d : Diagnostic) : (s.raiseDiagnostic d).pc = s.pc + 2 := rfl
@[simp] theorem raiseDiagnostic_sp (d : Diagnostic) : (s.raiseDiagnostic d).sp = s.sp := rfl
@[simp] theorem raiseDiagnostic_stack (d : Diagnostic) : (s.raiseDiagnostic d).stack = s.stack := rfl
@[simp] theorem raiseDiagnostic_dt (d : Diagnostic) : (s.raiseDiagnostic d).dt = s.dt := rfl
@[simp] theorem raiseDiagnostic_st (d : Diagnostic) : (s.raiseDiagnostic d).st = s.st := rfl
@[simp] theorem raiseDiagnostic_fb (d : Diagnostic) : (s.raiseDiagnostic d).fb = s.fb := rfl
@[simp] theorem raiseDiagnostic_dirty (d : Diagnostic) : (s.raiseDiagnostic d).dirty = s.dirty := rfl
@[simp] theorem raiseDiagnostic_key (d : Diagnostic) : (s.raiseDiagnostic d).key = s.key := rfl
@[simp] theorem raiseDiagnostic_mode (d : Diagnostic) : (s.raiseDiagnostic d).mode = s.mode := rfl
@[simp] theorem raiseDiagnostic_beep (d : Diagnostic) : (s.raiseDiagnostic d).beep = s.beep := rfl
@[simp] theorem raiseDiagnostic_mem (d : Diagnostic) : (s.raiseDiagnostic d).mem = s.mem := rfl
@[simp] theorem raiseDiagnostic_result (d : Diagnostic) : (s.raiseDiagnostic d).result = .diagnostic d := rfl
@[simp] theorem raiseDiagnostic_rndDraws (d : Diagnostic) : (s.raiseDiagnostic d).rndDraws = s.rndDraws := rfl
@[simp] theorem raiseDiagnostic_reg (d : Diagnostic) (r : Reg) : (s.raiseDiagnostic d).reg r = s.reg r := rfl
@[simp] theorem raiseDiagnostic_memRead (d : Diagnostic) (ea : Nat) : (s.raiseDiagnostic d).memRead ea = s.memRead ea := rfl
@[simp] theorem raiseDiagnostic_held (d : Diagnostic) (k : Nat) : (s.raiseDiagnostic d).held k = s.held k := rfl

/-! ### `memWrite` -/

@[simp] theorem memWrite_v (a : Nat) (b : Byte) : (s.memWrite a b).v = s.v := rfl
@[simp] theorem memWrite_i (a : Nat) (b : Byte) : (s.memWrite a b).i = s.i := rfl
@[simp] theorem memWrite_pc (a : Nat) (b : Byte) : (s.memWrite a b).pc = s.pc := rfl
@[simp] theorem memWrite_sp (a : Nat) (b : Byte) : (s.memWrite a b).sp = s.sp := rfl
@[simp] theorem memWrite_stack (a : Nat) (b : Byte) : (s.memWrite a b).stack = s.stack := rfl
@[simp] theorem memWrite_dt (a : Nat) (b : Byte) : (s.memWrite a b).dt = s.dt := rfl
@[simp] theorem memWrite_st (a : Nat) (b : Byte) : (s.memWrite a b).st = s.st := rfl
@[simp] theorem memWrite_fb (a : Nat) (b : Byte) : (s.memWrite a b).fb = s.fb := rfl
@[simp] theorem memWrite_dirty (a : Nat) (b : Byte) : (s.memWrite a b).dirty = s.dirty := rfl
@[simp] theorem memWrite_key (a : Nat) (b : Byte) : (s.memWrite a b).key = s.key := rfl
@[simp] theorem memWrite_mode (a : Nat) (b : Byte) : (s.memWrite a b).mode = s.mode := rfl
@[simp] theorem memWrite_beep (a : Nat) (b : Byte) : (s.memWrite a b).beep = s.beep := rfl
@[simp] theorem memWrite_mem (a : Nat) (b : Byte) : (s.memWrite a b).mem = s.mem.put (a % Config.memorySize) b := rfl
@[simp] theorem memWrite_result (a : Nat) (b : Byte) : (s.memWrite a b).result = s.result := rfl
@[simp] theorem memWrite_rndDraws (a : Nat) (b : Byte) : (s.memWrite a b).rndDraws = s.rndDraws := rfl
@[simp] theorem memWrite_reg (a : Nat) (b : Byte) (r : Reg) : (s.memWrite a b).reg r = s.reg r := rfl
@[simp] theorem memWrite_held (a : Nat) (b : Byte) (k : Nat) : (s.memWrite a b).held k = s.held k := rfl

/-! ### `countDraw` -/

@[simp] theorem countDraw_v : (s.countDraw).v = s.v := rfl
@[simp] theorem countDraw_i : (s.countDraw).i = s.i := rfl
@[simp] theorem countDraw_pc : (s.countDraw).pc = s.pc := rfl
@[simp] theorem countDraw_sp : (s.countDraw).sp = s.sp := rfl
@[simp] theorem countDraw_stack : (s.countDraw).stack = s.stack := rfl
@[simp] theorem countDraw_dt : (s.countDraw).dt = s.dt := rfl
@[simp] theorem countDraw_st : (s.countDraw).st = s.st := rfl
@[simp] theorem countDraw_fb : (s.countDraw).fb = s.fb := rfl
@[simp] theorem countDraw_dirty : (s.countDraw).dirty = s.dirty := rfl
@[simp] theorem countDraw_key : (s.countDraw).key = s.key := rfl
@[simp] theorem countDraw_mode : (s.countDraw).mode = s.mode := rfl
@[simp] theorem countDraw_beep : (s.countDraw).beep = s.beep := rfl
@[simp] theorem countDraw_mem : (s.countDraw).mem = s.mem := rfl
@[simp] theorem countDraw_result : (s.countDraw).result = s.result := rfl
@[simp] theorem countDraw_rndDraws : (s.countDraw).rndDraws = s.rndDraws + 1 := rfl
@[simp] theorem countDraw_reg (r : Reg) : (s.countDraw).reg r = s.reg r := rfl
@[simp] theorem countDraw_memRead (ea : Nat) : (s.countDraw).memRead ea = s.memRead ea := rfl
@[simp] theorem countDraw_held (k : Nat) : (s.countDraw).held k = s.held k := rfl

/-! ### `clearResult` -/

@[simp] theorem clearResult_v : (s.clearResult).v = s.v := rfl
@[simp] theorem clearResult_i : (s.clearResult).i = s.i := rfl
@[simp] theorem clearResult_pc : (s.clearResult).pc = s.pc := rfl
@[simp] theorem clearResult_sp : (s.clearResult).sp = s.sp := rfl
@[simp] theorem clearResult_stack : (s.clearResult).stack = s.stack := rfl
@[simp] theorem clearResult_dt : (s.clearResult).dt = s.dt := rfl
@[simp] theorem clearResult_st : (s.clearResult).st = s.st := rfl
@[simp] theorem clearResult_fb : (s.clearResult).fb = s.fb := rfl
@[simp] theorem clearResult_dirty : (s.clearResult).dirty = s.dirty := rfl
@[simp] theorem clearResult_key : (s.clearResult).key = s.key := rfl
@[simp] theorem clearResult_mode : (s.clearResult).mode = s.mode := rfl
@[simp] theorem clearResult_beep : (s.clearResult).beep = s.beep := rfl
@[simp] theorem clearResult_mem : (s.clearResult).mem = s.mem := rfl
@[simp] theorem clearResult_result : (s.clearResult).result = .ok := rfl
@[simp] theorem clearResult_rndDraws : (s.clearResult).rndDraws = s.rndDraws := rfl
@[simp] theorem clearResult_reg (r : Reg) : (s.clearResult).reg r = s.reg r := rfl
@[simp] theorem clearResult_memRead (ea : Nat) : (s.clearResult).memRead ea = s.memRead ea := rfl
@[simp] theorem clearResult_held (k : Nat) : (s.clearResult).held k = s.held k := rfl

/-! ### `setMode` -/

@[simp] theorem setMode_v (m : EngineMode) : (s.setMode m).v = s.v := rfl
@[simp] theorem setMode_i (m : EngineMode) : (s.setMode m).i = s.i := rfl
@[simp] theorem setMode_pc (m : EngineMode) : (s.setMode m).pc = s.pc := rfl
@[simp] theorem setMode_sp (m : EngineMode) : (s.setMode m).sp = s.sp := rfl
@[simp] theorem setMode_stack (m : EngineMode) : (s.setMode m).stack = s.stack := rfl
@[simp] theorem setMode_dt (m : EngineMode) : (s.setMode m).dt = s.dt := rfl
@[simp] theorem setMode_st (m : EngineMode) : (s.setMode m).st = s.st := rfl
@[simp] theorem setMode_fb (m : EngineMode) : (s.setMode m).fb = s.fb := rfl
@[simp] theorem setMode_dirty (m : EngineMode) : (s.setMode m).dirty = s.dirty := rfl
@[simp] theorem setMode_key (m : EngineMode) : (s.setMode m).key = s.key := rfl
@[simp] theorem setMode_mode (m : EngineMode) : (s.setMode m).mode = m := rfl
@[simp] theorem setMode_beep (m : EngineMode) : (s.setMode m).beep = s.beep := rfl
@[simp] theorem setMode_mem (m : EngineMode) : (s.setMode m).mem = s.mem := rfl
@[simp] theorem setMode_result (m : EngineMode) : (s.setMode m).result = s.result := rfl
@[simp] theorem setMode_rndDraws (m : EngineMode) : (s.setMode m).rndDraws = s.rndDraws := rfl
@[simp] theorem setMode_reg (m : EngineMode) (r : Reg) : (s.setMode m).reg r = s.reg r := rfl
@[simp] theorem setMode_memRead (m : EngineMode) (ea : Nat) : (s.setMode m).memRead ea = s.memRead ea := rfl
@[simp] theorem setMode_held (m : EngineMode) (k : Nat) : (s.setMode m).held k = s.held k := rfl

/-! ### `tick` -/

@[simp] theorem tick_v : (s.tick).v = s.v := rfl
@[simp] theorem tick_i : (s.tick).i = s.i := rfl
@[simp] theorem tick_pc : (s.tick).pc = s.pc := rfl
@[simp] theorem tick_sp : (s.tick).sp = s.sp := rfl
@[simp] theorem tick_stack : (s.tick).stack = s.stack := rfl
@[simp] theorem tick_dt : (s.tick).dt = countDown s.dt := rfl
@[simp] theorem tick_st : (s.tick).st = countDown s.st := rfl
@[simp] theorem tick_fb : (s.tick).fb = s.fb := rfl
@[simp] theorem tick_dirty : (s.tick).dirty = s.dirty := rfl
@[simp] theorem tick_key : (s.tick).key = s.key := rfl
@[simp] theorem tick_mode : (s.tick).mode = s.mode := rfl
@[simp] theorem tick_beep : (s.tick).beep = (s.st == 1) := rfl
@[simp] theorem tick_mem : (s.tick).mem = s.mem := rfl
@[simp] theorem tick_result : (s.tick).result = s.result := rfl
@[simp] theorem tick_rndDraws : (s.tick).rndDraws = s.rndDraws := rfl
@[simp] theorem tick_reg (r : Reg) : (s.tick).reg r = s.reg r := rfl
@[simp] theorem tick_memRead (ea : Nat) : (s.tick).memRead ea = s.memRead ea := rfl
@[simp] theorem tick_held (k : Nat) : (s.tick).held k = s.held k := rfl

/-! ### `finish` -/

@[simp] theorem finish_v (j : Instr) : (s.finish j).v = s.v := rfl
@[simp] theorem finish_i (j : Instr) : (s.finish j).i = s.i := rfl
@[simp] theorem finish_pc (j : Instr) : (s.finish j).pc = s.pc := rfl
@[simp] theorem finish_sp (j : Instr) : (s.finish j).sp = s.sp := rfl
@[simp] theorem finish_stack (j : Instr) : (s.finish j).stack = s.stack := rfl
@[simp] theorem finish_dt (j : Instr) : (s.finish j).dt = countDown s.dt := rfl
@[simp] theorem finish_st (j : Instr) : (s.finish j).st = countDown s.st := rfl
@[simp] theorem finish_fb (j : Instr) : (s.finish j).fb = s.fb := rfl
@[simp] theorem finish_dirty (j : Instr) : (s.finish j).dirty = s.dirty := rfl
@[simp] theorem finish_key (j : Instr) : (s.finish j).key = s.key := rfl
@[simp] theorem finish_mode (j : Instr) : (s.finish j).mode = s.nextMode j := rfl
@[simp] theorem finish_beep (j : Instr) : (s.finish j).beep = (s.st == 1) := rfl
@[simp] theorem finish_mem (j : Instr) : (s.finish j).mem = s.mem := rfl
@[simp] theorem finish_result (j : Instr) : (s.finish j).result = s.result := rfl
@[simp] theorem finish_rndDraws (j : Instr) : (s.finish j).rndDraws = s.rndDraws := rfl
@[simp] theorem finish_reg (j : Instr) (r : Reg) : (s.finish j).reg r = s.reg r := rfl
@[simp] theorem finish_memRead (j : Instr) (ea : Nat) : (s.finish j).memRead ea = s.memRead ea := rfl
@[simp] theorem finish_held (j : Instr) (k : Nat) : (s.finish j).held k = s.held k := rfl

/-! ### `clearDirty` -/

@[simp] theorem clearDirty_v : (s.clearDirty).v = s.v := rfl
@[simp] theorem clearDirty_i : (s.clearDirty).i = s.i := rfl
@[simp] theorem clearDirty_pc : (s.clearDirty).pc = s.pc := rfl
@[simp] theorem clearDirty_sp : (s.clearDirty).sp = s.sp := rfl
@[simp] theorem clearDirty_stack : (s.clearDirty).stack = s.stack := rfl
@[simp] theorem clearDirty_dt : (s.clearDirty).dt = s.dt := rfl
@[simp] theorem clearDirty_st : (s.clearDirty).st = s.st := rfl
@[simp] theorem clearDirty_fb : (s.clearDirty).fb = s.fb := rfl
@[simp] theorem clearDirty_dirty : (s.clearDirty).dirty = false := rfl
@[simp] theorem clearDirty_key : (s.clearDirty).key = s.key := rfl
@[simp] theorem clearDirty_mode : (s.clearDirty).mode = s.mode := rfl
@[simp] theorem clearDirty_beep : (s.clearDirty).beep = s.beep := rfl
@[simp] theorem clearDirty_mem : (s.clearDirty).mem = s.mem := rfl
@[simp] theorem clearDirty_result : (s.clearDirty).result = s.result := rfl
@[simp] theorem clearDirty_rndDraws : (s.clearDirty).rndDraws = s.rndDraws := rfl
@[simp] theorem clearDirty_reg (r : Reg) : (s.clearDirty).reg r = s.reg r := rfl
@[simp] theorem clearDirty_memRead (ea : Nat) : (s.clearDirty).memRead ea = s.memRead ea := rfl
@[simp] theorem clearDirty_held (k : Nat) : (s.clearDirty).held k = s.held k := rfl

/-! ### `setKey` -/

@[simp] theorem setKey_v (k : Fin 16) (h : Bool) : (s.setKey k h).v = s.v := rfl
@[simp] theorem setKey_i (k : Fin 16) (h : Bool) : (s.setKey k h).i = s.i := rfl
@[simp] theorem setKey_pc (k : Fin 16) (h : Bool) : (s.setKey k h).pc = s.pc := rfl
@[simp] theorem setKey_sp (k : Fin 16) (h : Bool) : (s.setKey k h).sp = s.sp := rfl
@[simp] theorem setKey_stack (k : Fin 16) (h : Bool) : (s.setKey k h).stack = s.stack := rfl
@[simp] theorem setKey_dt (k : Fin 16) (h : Bool) : (s.setKey k h).dt = s.dt := rfl
@[simp] theorem setKey_st (k : Fin 16) (h : Bool) : (s.setKey k h).st = s.st := rfl
@[simp] theorem setKey_fb (k : Fin 16) (h : Bool) : (s.setKey k h).fb = s.fb := rfl
@[simp] theorem setKey_dirty (k : Fin 16) (h : Bool) : (s.setKey k h).dirty = s.dirty := rfl
@[simp] theorem setKey_key (k : Fin 16) (h : Bool) : (s.setKey k h).key = s.key.set k h := rfl
@[simp] theorem setKey_mode (k : Fin 16) (h : Bool) : (s.setKey k h).mode = s.mode := rfl
@[simp] theorem setKey_beep (k : Fin 16) (h : Bool) : (s.setKey k h).beep = s.beep := rfl
@[simp] theorem setKey_mem (k : Fin 16) (h : Bool) : (s.setKey k h).mem = s.mem := rfl
@[simp] theorem setKey_result (k : Fin 16) (h : Bool) : (s.setKey k h).result = s.result := rfl
@[simp] theorem setKey_rndDraws (k : Fin 16) (h : Bool) : (s.setKey k h).rndDraws = s.rndDraws := rfl
@[simp] theorem setKey_reg (k : Fin 16) (h : Bool) (r : Reg) : (s.setKey k h).reg r = s.reg r := rfl
@[simp] theorem setKey_memRead (k : Fin 16) (h : Bool) (ea : Nat) : (s.setKey k h).memRead ea = s.memRead ea := rfl

/-! ### `clearBeep` -/

@[simp] theorem clearBeep_v : (s.clearBeep).v = s.v := rfl
@[simp] theorem clearBeep_i : (s.clearBeep).i = s.i := rfl
@[simp] theorem clearBeep_pc : (s.clearBeep).pc = s.pc := rfl
@[simp] theorem clearBeep_sp : (s.clearBeep).sp = s.sp := rfl
@[simp] theorem clearBeep_stack : (s.clearBeep).stack = s.stack := rfl
@[simp] theorem clearBeep_dt : (s.clearBeep).dt = s.dt := rfl
@[simp] theorem clearBeep_st : (s.clearBeep).st = s.st := rfl
@[simp] theorem clearBeep_fb : (s.clearBeep).fb = s.fb := rfl
@[simp] theorem clearBeep_dirty : (s.clearBeep).dirty = s.dirty := rfl
@[simp] theorem clearBeep_key : (s.clearBeep).key = s.key := rfl
@[simp] theorem clearBeep_mode : (s.clearBeep).mode = s.mode := rfl
@[simp] theorem clearBeep_beep : (s.clearBeep).beep = false := rfl
@[simp] theorem clearBeep_mem : (s.clearBeep).mem = s.mem := rfl
@[simp] theorem clearBeep_result : (s.clearBeep).result = s.result := rfl
@[simp] theorem clearBeep_rndDraws : (s.clearBeep).rndDraws = s.rndDraws := rfl
@[simp] theorem clearBeep_reg (r : Reg) : (s.clearBeep).reg r = s.reg r := rfl
@[simp] theorem clearBeep_memRead (ea : Nat) : (s.clearBeep).memRead ea = s.memRead ea := rfl
@[simp] theorem clearBeep_held (k : Nat) : (s.clearBeep).held k = s.held k := rfl

end Sys2Proof.Machine
end

