-- ==== Sys2Proof/Laws/Memory.lean ====
section
/-! SUPPORT. The laws of memory: a byte read after a write, other bytes unchanged, the canonical form kept, and canonical
memories with equal bytes equal as data. -/

namespace Sys2Proof.Machine

/-! ### Lists of cells -/

/-- The addresses of a list of cells rise strictly. -/
abbrev rising (cells : List Host.Cell) : Prop := (cells.map Prod.fst).Pairwise (· < ·)

theorem rising_cons {k : Nat} {b : Byte} {cells : List Host.Cell} :
    rising ((k, b) :: cells) ↔ (∀ c ∈ cells, k < c.1) ∧ rising cells := by
  simp [rising]

theorem cellAt_eq_none_of_lt {cells : List Host.Cell} {a : Nat} (h : ∀ c ∈ cells, a < c.1) :
    cellAt cells a = none := by
  induction cells with
  | nil => rfl
  | cons c rest ih =>
    obtain ⟨k, b⟩ := c
    have hk : a < k := h (k, b) (by simp)
    simp [cellAt, Nat.ne_of_gt hk, ih fun c hc => h c (by simp [hc])]

theorem mem_of_cellAt {cells : List Host.Cell} {a : Nat} {b : Byte} (h : cellAt cells a = some b) :
    (a, b) ∈ cells := by
  induction cells with
  | nil => simp [cellAt] at h
  | cons c rest ih =>
    obtain ⟨k, d⟩ := c
    simp only [cellAt] at h
    split at h
    · simp_all
    · simp [ih h]

theorem cellAt_insertCell (a a' : Nat) (b : Byte) (cells : List Host.Cell) :
    cellAt (insertCell a b cells) a' = if a = a' then some b else cellAt cells a' := by
  induction cells with
  | nil => simp [insertCell, cellAt]
  | cons c rest ih =>
    obtain ⟨k, d⟩ := c
    simp only [insertCell]
    split
    · simp [cellAt]
    · split
      · subst k; simp only [cellAt]; split <;> rfl
      · simp only [cellAt, ih]
        split <;> split <;> simp_all

theorem cellAt_eraseCell (a a' : Nat) (cells : List Host.Cell) :
    cellAt (eraseCell a cells) a' = if a = a' then none else cellAt cells a' := by
  induction cells with
  | nil => simp [eraseCell, cellAt]
  | cons c rest ih =>
    obtain ⟨k, d⟩ := c
    simp only [eraseCell]
    split
    · subst k; simp only [ih, cellAt]; split <;> rfl
    · simp only [cellAt, ih]
      split <;> split <;> simp_all

theorem mem_insertCell {a : Nat} {b : Byte} {cells : List Host.Cell} {c : Host.Cell}
    (h : c ∈ insertCell a b cells) : c = (a, b) ∨ c ∈ cells := by
  induction cells with
  | nil => simpa [insertCell] using h
  | cons d rest ih =>
    simp only [insertCell] at h
    split at h
    · simpa using h
    · split at h
      · simp only [List.mem_cons] at h ⊢; tauto
      · simp only [List.mem_cons] at h ⊢
        rcases h with h | h
        · exact .inr (.inl h)
        · rcases ih h with h | h
          · exact .inl h
          · exact .inr (.inr h)

theorem rising_insertCell (a : Nat) (b : Byte) {cells : List Host.Cell} (hr : rising cells) :
    rising (insertCell a b cells) := by
  induction cells with
  | nil => simp [insertCell, rising]
  | cons c rest ih =>
    obtain ⟨k, d⟩ := c
    obtain ⟨hk, hr'⟩ := rising_cons.1 hr
    simp only [insertCell]
    split
    · rename_i h
      refine rising_cons.2 ⟨?_, hr⟩
      intro c hc
      rcases List.mem_cons.1 hc with rfl | hc
      · exact h
      · exact Nat.lt_trans h (hk c hc)
    · split
      · subst k; exact rising_cons.2 ⟨hk, hr'⟩
      · refine rising_cons.2 ⟨?_, ih hr'⟩
        intro c hc
        rcases mem_insertCell hc with rfl | hc
        · show k < a; omega
        · exact hk c hc

theorem eraseCell_sublist (a : Nat) (cells : List Host.Cell) : (eraseCell a cells).Sublist cells := by
  induction cells with
  | nil => exact List.Sublist.slnil
  | cons c rest ih =>
    obtain ⟨k, d⟩ := c
    simp only [eraseCell]
    split
    · exact ih.trans (List.sublist_cons_self _ _)
    · exact ih.cons_cons _

theorem rising_eraseCell (a : Nat) {cells : List Host.Cell} (hr : rising cells) : rising (eraseCell a cells) :=
  hr.sublist ((eraseCell_sublist a cells).map _)

/-! ### Memories -/

@[simp] theorem put_glyphs (m : Memory) (a : Nat) (b : Byte) : (m.put a b).glyphs = m.glyphs := by
  simp only [Memory.put]; split <;> rfl

@[simp] theorem put_unlisted (m : Memory) (a a' : Nat) (b : Byte) : (m.put a b).unlisted a' = m.unlisted a' := by
  simp [Memory.unlisted]

/-- What the canonical form says. -/
theorem wf_iff (m : Memory) :
    m.wf = true ↔ rising m.cells ∧ ∀ c ∈ m.cells, c.1 < 4096 ∧ c.2 ≠ m.unlisted c.1 := by
  simp [Memory.wf, rising]

/-- A byte read after a write (R60): the byte written at its address, the old one elsewhere. -/
theorem get_put (m : Memory) (a a' : Nat) (b : Byte) :
    (m.put a b).get a' = if a = a' then b else m.get a' := by
  simp only [Memory.get, put_unlisted]
  simp only [Memory.put]
  split
  · rename_i h
    simp only [cellAt_eraseCell]
    split
    · subst a'; simp [h]
    · rfl
  · simp only [cellAt_insertCell]
    split <;> simp

/-- A write below 4096 keeps the canonical form. -/
theorem put_wf {m : Memory} (hm : m.wf = true) {a : Nat} (ha : a < 4096) (b : Byte) : (m.put a b).wf = true := by
  obtain ⟨hr, hc⟩ := (wf_iff m).1 hm
  rw [wf_iff]
  simp only [put_unlisted]
  simp only [Memory.put]
  split
  · exact ⟨rising_eraseCell a hr, fun c h => hc c ((eraseCell_sublist a _).subset h)⟩
  · rename_i hb
    refine ⟨rising_insertCell a b hr, fun c h => ?_⟩
    rcases mem_insertCell h with rfl | h
    · exact ⟨ha, hb⟩
    · exact hc c h

theorem resetWith_mem_wf (g : Vector Byte 80) (n : Nat) : (State.resetWith g n).mem.wf = true := rfl

/-! ### Memory through the state (R54) -/

theorem memRead_memWrite (s : State) (a ea : Nat) (b : Byte) :
    (s.memWrite a b).memRead ea = if a % 4096 = ea % 4096 then b else s.memRead ea :=
  get_put _ _ _ b

theorem memWrite_mem_wf {s : State} (hm : s.mem.wf = true) (a : Nat) (b : Byte) :
    (s.memWrite a b).mem.wf = true :=
  put_wf hm (Nat.mod_lt a (by decide)) b

@[simp] theorem memWrite_glyphs (s : State) (a : Nat) (b : Byte) : (s.memWrite a b).mem.glyphs = s.mem.glyphs :=
  put_glyphs _ _ _

end Sys2Proof.Machine
end

