-- ==== Sys2Proof/Laws/Ops.lean ====
section
/-! SUPPORT. One law per shared operation: everything it does, said once. -/

namespace Sys2Proof.Machine

/-! ### Registers -/

/-- A register read after a write. -/
@[simp] theorem reg_setReg (s : State) (x y : Reg) (b : Byte) :
    (s.setReg x b).reg y = if x = y then b else s.reg y := by
  simp only [State.reg, State.setReg, Fin.getElem_fin, Vector.getElem_set, Fin.ext_iff]

/-- The flag and the result (R140): the result wins at the destination. -/
theorem reg_setFlagThenReg (s : State) (x y : Reg) (flag result : Byte) :
    (s.setFlagThenReg x flag result).reg y = if x = y then result else if y = 15 then flag else s.reg y := by
  simp only [State.setFlagThenReg, reg_setReg, eq_comm]

/-! `setFlagThenReg` writes registers alone. -/

@[simp] theorem setFlagThenReg_i (s : State) (x : Reg) (flag result : Byte) : (s.setFlagThenReg x flag result).i = s.i := rfl
@[simp] theorem setFlagThenReg_pc (s : State) (x : Reg) (flag result : Byte) : (s.setFlagThenReg x flag result).pc = s.pc := rfl
@[simp] theorem setFlagThenReg_sp (s : State) (x : Reg) (flag result : Byte) : (s.setFlagThenReg x flag result).sp = s.sp := rfl
@[simp] theorem setFlagThenReg_stack (s : State) (x : Reg) (flag result : Byte) : (s.setFlagThenReg x flag result).stack = s.stack := rfl
@[simp] theorem setFlagThenReg_dt (s : State) (x : Reg) (flag result : Byte) : (s.setFlagThenReg x flag result).dt = s.dt := rfl
@[simp] theorem setFlagThenReg_st (s : State) (x : Reg) (flag result : Byte) : (s.setFlagThenReg x flag result).st = s.st := rfl
@[simp] theorem setFlagThenReg_fb (s : State) (x : Reg) (flag result : Byte) : (s.setFlagThenReg x flag result).fb = s.fb := rfl
@[simp] theorem setFlagThenReg_dirty (s : State) (x : Reg) (flag result : Byte) : (s.setFlagThenReg x flag result).dirty = s.dirty := rfl
@[simp] theorem setFlagThenReg_key (s : State) (x : Reg) (flag result : Byte) : (s.setFlagThenReg x flag result).key = s.key := rfl
@[simp] theorem setFlagThenReg_mode (s : State) (x : Reg) (flag result : Byte) : (s.setFlagThenReg x flag result).mode = s.mode := rfl
@[simp] theorem setFlagThenReg_beep (s : State) (x : Reg) (flag result : Byte) : (s.setFlagThenReg x flag result).beep = s.beep := rfl
@[simp] theorem setFlagThenReg_mem (s : State) (x : Reg) (flag result : Byte) : (s.setFlagThenReg x flag result).mem = s.mem := rfl
@[simp] theorem setFlagThenReg_result (s : State) (x : Reg) (flag result : Byte) : (s.setFlagThenReg x flag result).result = s.result := rfl
@[simp] theorem setFlagThenReg_rndDraws (s : State) (x : Reg) (flag result : Byte) : (s.setFlagThenReg x flag result).rndDraws = s.rndDraws := rfl

@[simp] theorem setFlagThenReg_memRead (s : State) (x : Reg) (flag result : Byte) (ea : Nat) :
    (s.setFlagThenReg x flag result).memRead ea = s.memRead ea := rfl

/-! `bumpIndex` writes `I` alone (R174, R175). -/

@[simp] theorem bumpIndex_v (s : State) (x : Reg) : (s.bumpIndex x).v = s.v := rfl
@[simp] theorem bumpIndex_pc (s : State) (x : Reg) : (s.bumpIndex x).pc = s.pc := rfl
@[simp] theorem bumpIndex_sp (s : State) (x : Reg) : (s.bumpIndex x).sp = s.sp := rfl
@[simp] theorem bumpIndex_stack (s : State) (x : Reg) : (s.bumpIndex x).stack = s.stack := rfl
@[simp] theorem bumpIndex_dt (s : State) (x : Reg) : (s.bumpIndex x).dt = s.dt := rfl
@[simp] theorem bumpIndex_st (s : State) (x : Reg) : (s.bumpIndex x).st = s.st := rfl
@[simp] theorem bumpIndex_fb (s : State) (x : Reg) : (s.bumpIndex x).fb = s.fb := rfl
@[simp] theorem bumpIndex_dirty (s : State) (x : Reg) : (s.bumpIndex x).dirty = s.dirty := rfl
@[simp] theorem bumpIndex_key (s : State) (x : Reg) : (s.bumpIndex x).key = s.key := rfl
@[simp] theorem bumpIndex_mode (s : State) (x : Reg) : (s.bumpIndex x).mode = s.mode := rfl
@[simp] theorem bumpIndex_beep (s : State) (x : Reg) : (s.bumpIndex x).beep = s.beep := rfl
@[simp] theorem bumpIndex_mem (s : State) (x : Reg) : (s.bumpIndex x).mem = s.mem := rfl
@[simp] theorem bumpIndex_result (s : State) (x : Reg) : (s.bumpIndex x).result = s.result := rfl
@[simp] theorem bumpIndex_rndDraws (s : State) (x : Reg) : (s.bumpIndex x).rndDraws = s.rndDraws := rfl

@[simp] theorem bumpIndex_reg (s : State) (x r : Reg) : (s.bumpIndex x).reg r = s.reg r := rfl
@[simp] theorem bumpIndex_memRead (s : State) (x : Reg) (ea : Nat) : (s.bumpIndex x).memRead ea = s.memRead ea := rfl

theorem bumpIndex_i (s : State) (x : Reg) : (s.bumpIndex x).i.toNat = (s.i.toNat + x.val + 1) % 65536 := by
  simp only [State.bumpIndex, setIndex_i, BitVec.toNat_add, BitVec.toNat_ofNat]; omega

/-! ### Addresses -/

/-- A read depends on its address modulo 4096 alone (R54). -/
theorem memRead_congr (s : State) {a b : Nat} (h : a % 4096 = b % 4096) : s.memRead a = s.memRead b := by
  simp only [State.memRead, Config.memorySize, h]

/-- Addresses below 4096 apart are different addresses. -/
theorem mod_ne_of_lt {base j k : Nat} (hjk : j < k) (hk : k < j + 4096) : (base + j) % 4096 ≠ (base + k) % 4096 := by
  omega

/-! ### Stores of several bytes (R55) -/

/-- `storeBytes` changes memory alone. -/
theorem storeBytes_eq (s : State) (base : Nat) (bs : List Byte) :
    s.storeBytes base bs = { s with mem := (s.storeBytes base bs).mem } := by
  induction bs generalizing s base with
  | nil => rfl
  | cons b rest ih => simp only [State.storeBytes]; rw [ih]; rfl

@[simp] theorem storeBytes_v (s : State) (base : Nat) (bs : List Byte) : (s.storeBytes base bs).v = s.v := by rw [storeBytes_eq]
@[simp] theorem storeBytes_i (s : State) (base : Nat) (bs : List Byte) : (s.storeBytes base bs).i = s.i := by rw [storeBytes_eq]
@[simp] theorem storeBytes_pc (s : State) (base : Nat) (bs : List Byte) : (s.storeBytes base bs).pc = s.pc := by rw [storeBytes_eq]
@[simp] theorem storeBytes_sp (s : State) (base : Nat) (bs : List Byte) : (s.storeBytes base bs).sp = s.sp := by rw [storeBytes_eq]
@[simp] theorem storeBytes_stack (s : State) (base : Nat) (bs : List Byte) : (s.storeBytes base bs).stack = s.stack := by rw [storeBytes_eq]
@[simp] theorem storeBytes_dt (s : State) (base : Nat) (bs : List Byte) : (s.storeBytes base bs).dt = s.dt := by rw [storeBytes_eq]
@[simp] theorem storeBytes_st (s : State) (base : Nat) (bs : List Byte) : (s.storeBytes base bs).st = s.st := by rw [storeBytes_eq]
@[simp] theorem storeBytes_fb (s : State) (base : Nat) (bs : List Byte) : (s.storeBytes base bs).fb = s.fb := by rw [storeBytes_eq]
@[simp] theorem storeBytes_dirty (s : State) (base : Nat) (bs : List Byte) : (s.storeBytes base bs).dirty = s.dirty := by rw [storeBytes_eq]
@[simp] theorem storeBytes_key (s : State) (base : Nat) (bs : List Byte) : (s.storeBytes base bs).key = s.key := by rw [storeBytes_eq]
@[simp] theorem storeBytes_mode (s : State) (base : Nat) (bs : List Byte) : (s.storeBytes base bs).mode = s.mode := by rw [storeBytes_eq]
@[simp] theorem storeBytes_beep (s : State) (base : Nat) (bs : List Byte) : (s.storeBytes base bs).beep = s.beep := by rw [storeBytes_eq]
@[simp] theorem storeBytes_result (s : State) (base : Nat) (bs : List Byte) : (s.storeBytes base bs).result = s.result := by rw [storeBytes_eq]
@[simp] theorem storeBytes_rndDraws (s : State) (base : Nat) (bs : List Byte) : (s.storeBytes base bs).rndDraws = s.rndDraws := by rw [storeBytes_eq]

@[simp] theorem storeBytes_reg (s : State) (base : Nat) (bs : List Byte) (r : Reg) :
    (s.storeBytes base bs).reg r = s.reg r := by rw [storeBytes_eq]; rfl

@[simp] theorem storeBytes_glyphs (s : State) (base : Nat) (bs : List Byte) :
    (s.storeBytes base bs).mem.glyphs = s.mem.glyphs := by
  induction bs generalizing s base with
  | nil => rfl
  | cons b rest ih => simp [State.storeBytes, ih]

/-- A byte outside the stored ones reads as before. -/
theorem memRead_storeBytes_out (s : State) (base : Nat) (bs : List Byte) {ea : Nat}
    (h : ¬ stored base bs.length ea) : (s.storeBytes base bs).memRead ea = s.memRead ea := by
  induction bs generalizing s base with
  | nil => rfl
  | cons b rest ih =>
    have h0 : base % 4096 ≠ ea % 4096 := fun e => h ⟨0, by simp, e⟩
    have hr : ¬ stored (base + 1) rest.length ea := by
      rintro ⟨k, hk, e⟩
      exact h ⟨k + 1, by simpa using hk, by rw [← e]; congr 1; omega⟩
    simp [State.storeBytes, ih _ _ hr, memRead_memWrite, h0]

/-- Each stored byte reads as stored, when the bytes do not overlap. -/
theorem memRead_storeBytes_in (s : State) (base : Nat) (bs : List Byte) (hlen : bs.length ≤ 4096) {k ea : Nat}
    (hk : k < bs.length) (e : (base + k) % 4096 = ea % 4096) : (s.storeBytes base bs).memRead ea = bs[k] := by
  induction bs generalizing s base k with
  | nil => simp at hk
  | cons b rest ih =>
    simp only [List.length_cons] at hlen hk
    cases k with
    | zero =>
      have hout : ¬ stored (base + 1) rest.length ea := by
        rintro ⟨j, hj, e'⟩
        simp only [Config.memorySize] at e'
        omega
      simp only [State.storeBytes, memRead_storeBytes_out _ _ _ hout, memRead_memWrite, List.getElem_cons_zero]
      simp only [Nat.add_zero] at e
      simp [e]
    | succ k =>
      simp only [State.storeBytes, List.getElem_cons_succ]
      exact ih _ _ (by omega) (by omega) (by rw [← e]; congr 1; omega)

/-- Stores keep the canonical form of memory. -/
theorem storeBytes_mem_wf {s : State} (hm : s.mem.wf = true) (base : Nat) (bs : List Byte) :
    (s.storeBytes base bs).mem.wf = true := by
  induction bs generalizing s base with
  | nil => exact hm
  | cons b rest ih => exact ih (memWrite_mem_wf hm _ _) _

/-- The values of the registers `V[0]` to `V[x]` (R174). -/
theorem lowRegs_length (s : State) (x : Reg) : (s.lowRegs x).length = x.val + 1 := by
  simp only [State.lowRegs, List.length_take, Vector.length_toList]; omega

theorem lowRegs_getElem (s : State) (x : Reg) {k : Nat} (hk : k < (s.lowRegs x).length) (h16 : k < 16) :
    (s.lowRegs x)[k] = s.reg ⟨k, h16⟩ := by
  simp [State.lowRegs, State.reg]

/-! ### Loads of several registers (R175) -/

/-- `loadRegs` changes registers alone. -/
theorem loadRegs_eq (s : State) (base count : Nat) :
    s.loadRegs base count = { s with v := (s.loadRegs base count).v } := by
  induction count with
  | zero => rfl
  | succ k ih => simp only [State.loadRegs]; rw [ih]; rfl

@[simp] theorem loadRegs_i (s : State) (base count : Nat) : (s.loadRegs base count).i = s.i := by rw [loadRegs_eq]
@[simp] theorem loadRegs_pc (s : State) (base count : Nat) : (s.loadRegs base count).pc = s.pc := by rw [loadRegs_eq]
@[simp] theorem loadRegs_sp (s : State) (base count : Nat) : (s.loadRegs base count).sp = s.sp := by rw [loadRegs_eq]
@[simp] theorem loadRegs_stack (s : State) (base count : Nat) : (s.loadRegs base count).stack = s.stack := by rw [loadRegs_eq]
@[simp] theorem loadRegs_dt (s : State) (base count : Nat) : (s.loadRegs base count).dt = s.dt := by rw [loadRegs_eq]
@[simp] theorem loadRegs_st (s : State) (base count : Nat) : (s.loadRegs base count).st = s.st := by rw [loadRegs_eq]
@[simp] theorem loadRegs_fb (s : State) (base count : Nat) : (s.loadRegs base count).fb = s.fb := by rw [loadRegs_eq]
@[simp] theorem loadRegs_dirty (s : State) (base count : Nat) : (s.loadRegs base count).dirty = s.dirty := by rw [loadRegs_eq]
@[simp] theorem loadRegs_key (s : State) (base count : Nat) : (s.loadRegs base count).key = s.key := by rw [loadRegs_eq]
@[simp] theorem loadRegs_mode (s : State) (base count : Nat) : (s.loadRegs base count).mode = s.mode := by rw [loadRegs_eq]
@[simp] theorem loadRegs_beep (s : State) (base count : Nat) : (s.loadRegs base count).beep = s.beep := by rw [loadRegs_eq]
@[simp] theorem loadRegs_mem (s : State) (base count : Nat) : (s.loadRegs base count).mem = s.mem := by rw [loadRegs_eq]
@[simp] theorem loadRegs_result (s : State) (base count : Nat) : (s.loadRegs base count).result = s.result := by rw [loadRegs_eq]
@[simp] theorem loadRegs_rndDraws (s : State) (base count : Nat) : (s.loadRegs base count).rndDraws = s.rndDraws := by rw [loadRegs_eq]

@[simp] theorem loadRegs_memRead (s : State) (base count ea : Nat) :
    (s.loadRegs base count).memRead ea = s.memRead ea := by rw [loadRegs_eq]; rfl

/-- The registers below `count` take the bytes from `base`, the others keep their value. -/
theorem loadRegs_reg (s : State) (base : Nat) {count : Nat} (hc : count ≤ 16) (r : Reg) :
    (s.loadRegs base count).reg r = if r.val < count then s.memRead (base + r.val) else s.reg r := by
  induction count with
  | zero => simp [State.loadRegs]
  | succ k ih =>
    have hk : (Fin.ofNat 16 k).val = k := Nat.mod_eq_of_lt (by omega)
    simp only [State.loadRegs, reg_setReg, ih (by omega), Fin.ext_iff, hk]
    split
    · rename_i h; subst h; simp
    · rename_i h
      have : r.val < k + 1 ↔ r.val < k := by omega
      simp [this]

/-! ### The key scan (R213) -/

/-- The scan finds nothing exactly when no key below `count` is held. -/
theorem scanKeys_eq_none (s : State) (count : Nat) :
    s.scanKeys count = none ↔ ∀ k, k < count → s.held k = false := by
  induction count with
  | zero => simp [State.scanKeys]
  | succ n ih =>
    simp only [State.scanKeys]
    split
    · rename_i h
      simp only [reduceCtorEq, false_iff]
      intro hall
      simp [hall n (by omega)] at h
    · rename_i h
      rw [ih]
      constructor
      · intro hall k hk
        rcases Nat.lt_succ_iff_lt_or_eq.1 hk with hk | rfl
        · exact hall k hk
        · simpa using h
      · exact fun hall k hk => hall k (by omega)

/-- The scan finds the highest held key below `count`. -/
theorem scanKeys_eq_some (s : State) (count k : Nat) :
    s.scanKeys count = some k ↔ k < count ∧ s.held k = true ∧ ∀ j, k < j → j < count → s.held j = false := by
  induction count with
  | zero => simp [State.scanKeys]
  | succ n ih =>
    simp only [State.scanKeys]
    split
    · rename_i h
      simp only [Option.some.injEq]
      constructor
      · rintro rfl; exact ⟨by omega, h, fun j h1 h2 => by omega⟩
      · rintro ⟨h1, h2, h3⟩
        rcases Nat.lt_succ_iff_lt_or_eq.1 h1 with hk | rfl
        · simp [h3 n hk (by omega)] at h
        · rfl
    · rename_i h
      rw [ih]
      constructor
      · rintro ⟨h1, h2, h3⟩
        refine ⟨by omega, h2, fun j hj hjn => ?_⟩
        rcases Nat.lt_succ_iff_lt_or_eq.1 hjn with hj' | rfl
        · exact h3 j hj hj'
        · simpa using h
      · rintro ⟨h1, h2, h3⟩
        rcases Nat.lt_succ_iff_lt_or_eq.1 h1 with hk | rfl
        · exact ⟨hk, h2, fun j hj hjn => h3 j hj (by omega)⟩
        · exact absurd h2 h

/-- A key above 15 is never held. -/
theorem held_of_ge (s : State) {k : Nat} (h : 16 ≤ k) : s.held k = false := by
  simp [State.held, Nat.not_lt.2 h]

/-! ### The timers (R240) -/

/-- A countdown never goes below zero. -/
theorem countDown_toNat (t : Byte) : (countDown t).toNat = t.toNat - 1 := by
  simp only [countDown]; split
  · have h1 : (1 : Byte).toNat = 1 := rfl
    have := t.isLt
    rw [BitVec.toNat_sub, h1]; omega
  · omega

end Sys2Proof.Machine
end

