-- ==== Sys2Proof/Laws/Display.lean ====
section
/-! SUPPORT. The laws of drawing (R191): the pixel loop in closed form, for the cells and for the collision flag. -/

namespace Sys2Proof.Machine

/-- The cell (x, y) of a canvas. -/
def Canvas.cell (c : Canvas) (x : Fin 64) (y : Fin 32) : Bool := c.fb[y.val * 64 + x.val]

/-- Row-major indices name one cell each. -/
theorem cellIndex_inj {x x' y y' : Nat} (hx : x < 64) (hx' : x' < 64) (h : y * 64 + x = y' * 64 + x') :
    x = x' ∧ y = y' := by omega

theorem drawPixel_cell (set : Bool) (px py : Nat) (c : Canvas) (x : Fin 64) (y : Fin 32) :
    (drawPixel set px py c).cell x y = (c.cell x y ^^ (set && decide (px = x.val ∧ py = y.val))) := by
  simp only [drawPixel]
  split
  · rename_i h
    simp only [Canvas.cell, Vector.getElem_set]
    split
    · rename_i e
      obtain ⟨hx, hy⟩ := cellIndex_inj h.2.1 x.isLt e
      simp [h.1, hx, hy]
    · rename_i e
      have : ¬ (px = x.val ∧ py = y.val) := fun ⟨hx, hy⟩ => e (by rw [hx, hy])
      simp [this]
  · rename_i h
    have : (set && decide (px = x.val ∧ py = y.val)) = false := by
      by_contra hc
      simp only [Bool.not_eq_false, Bool.and_eq_true, decide_eq_true_eq] at hc
      exact h ⟨hc.1, by omega, by omega⟩
    rw [this, Bool.xor_false]

theorem drawPixel_collision (set : Bool) (px py : Nat) (c : Canvas) :
    (drawPixel set px py c).collision = true ↔
      c.collision = true ∨ ∃ (x : Fin 64) (y : Fin 32), set = true ∧ px = x.val ∧ py = y.val ∧ c.cell x y = true := by
  simp only [drawPixel]
  split
  · rename_i h
    simp only [Bool.or_eq_true]
    refine or_congr Iff.rfl ⟨fun e => ⟨⟨px, h.2.1⟩, ⟨py, h.2.2⟩, h.1, rfl, rfl, e⟩, ?_⟩
    rintro ⟨x, y, -, rfl, rfl, e⟩
    exact e
  · rename_i h
    simp only [iff_self_or]
    rintro ⟨x, y, hs, rfl, rfl, -⟩
    exact absurd ⟨hs, x.isLt, y.isLt⟩ h

/-- The bit that the first `count` pixels of a row at `(x0, py)` put on the cell (x, y). -/
def rowBit (b : Byte) (x0 py count x y : Nat) : Bool :=
  decide (x0 ≤ x ∧ x < x0 + count ∧ py = y) && b.getLsbD (7 - (x - x0))

theorem drawRow_cell (b : Byte) (x0 py count : Nat) (c : Canvas) (x : Fin 64) (y : Fin 32) :
    (drawRow b x0 py count c).cell x y = (c.cell x y ^^ rowBit b x0 py count x.val y.val) := by
  induction count with
  | zero =>
    have : ¬ (x0 ≤ x.val ∧ x.val < x0 + 0 ∧ py = y.val) := by omega
    simp only [drawRow, rowBit, decide_eq_false this, Bool.false_and, Bool.xor_false]
  | succ p ih =>
    simp only [drawRow, drawPixel_cell, ih, Bool.xor_assoc]
    congr 1
    by_cases e : x0 + p = x.val
    · have h2 : (x0 ≤ x.val ∧ x.val < x0 + (p + 1) ∧ py = y.val) ↔ py = y.val := by omega
      have h3 : x.val - x0 = p := by omega
      simp [rowBit, h2, h3, e, Bool.and_comm]
    · have h2 : (x0 ≤ x.val ∧ x.val < x0 + (p + 1) ∧ py = y.val) ↔ (x0 ≤ x.val ∧ x.val < x0 + p ∧ py = y.val) := by omega
      simp [rowBit, h2, e]

theorem drawRow_collision (b : Byte) (x0 py count : Nat) (c : Canvas) :
    (drawRow b x0 py count c).collision = true ↔
      c.collision = true ∨ ∃ (x : Fin 64) (y : Fin 32), rowBit b x0 py count x.val y.val = true ∧ c.cell x y = true := by
  induction count with
  | zero =>
    simp only [drawRow, iff_self_or]
    rintro ⟨x, y, h, -⟩
    simp only [rowBit, Bool.and_eq_true, decide_eq_true_eq] at h
    omega
  | succ p ih =>
    simp only [drawRow, drawPixel_collision, ih, or_assoc, drawRow_cell]
    refine or_congr Iff.rfl ⟨?_, ?_⟩
    · rintro (⟨x, y, h, e⟩ | ⟨x, y, hb, hx, hy, e⟩)
      · simp only [rowBit, Bool.and_eq_true, decide_eq_true_eq] at h
        exact ⟨x, y, by simp only [rowBit, Bool.and_eq_true, decide_eq_true_eq]; exact ⟨by omega, h.2⟩, e⟩
      · have h3 : x.val - x0 = p := by omega
        have h0 : rowBit b x0 py p x.val y.val = false := by
          have : ¬ (x0 ≤ x.val ∧ x.val < x0 + p ∧ py = y.val) := by omega
          simp [rowBit, this]
        refine ⟨x, y, ?_, by simpa [h0] using e⟩
        simp only [rowBit, Bool.and_eq_true, decide_eq_true_eq]
        exact ⟨by omega, by rw [h3]; exact hb⟩
    · rintro ⟨x, y, h, e⟩
      simp only [rowBit, Bool.and_eq_true, decide_eq_true_eq] at h
      by_cases hx : x0 + p = x.val
      · have h3 : x.val - x0 = p := by omega
        have h0 : rowBit b x0 py p x.val y.val = false := by
          have : ¬ (x0 ≤ x.val ∧ x.val < x0 + p ∧ py = y.val) := by omega
          simp [rowBit, this]
        exact .inr ⟨x, y, by rw [← h3]; exact h.2, hx, h.1.2.2, by simpa [h0] using e⟩
      · refine .inl ⟨x, y, ?_, e⟩
        simp only [rowBit, Bool.and_eq_true, decide_eq_true_eq]
        exact ⟨by omega, h.2⟩

/-- One more row of the sprite: the rows before it do not cover its cells. -/
theorem spriteBit_succ (s : State) (x0 y0 r x y : Nat) :
    s.spriteBit x0 y0 (r + 1) x y =
      (s.spriteBit x0 y0 r x y ^^ rowBit (s.memRead (s.dataAddress r)) x0 (y0 + r) 8 x y) := by
  by_cases e : y0 + r = y
  · have h1 : ¬ (x0 ≤ x ∧ x < x0 + 8 ∧ y0 ≤ y ∧ y < y0 + r) := by omega
    have h2 : (x0 ≤ x ∧ x < x0 + 8 ∧ y0 ≤ y ∧ y < y0 + (r + 1)) ↔ (x0 ≤ x ∧ x < x0 + 8 ∧ y0 + r = y) := by omega
    have h3 : y - y0 = r := by omega
    simp [State.spriteBit, rowBit, h1, h2, h3]
  · have h2 : (x0 ≤ x ∧ x < x0 + 8 ∧ y0 ≤ y ∧ y < y0 + (r + 1)) ↔ (x0 ≤ x ∧ x < x0 + 8 ∧ y0 ≤ y ∧ y < y0 + r) := by omega
    have h4 : ¬ (x0 ≤ x ∧ x < x0 + 8 ∧ y0 + r = y) := by omega
    simp [State.spriteBit, rowBit, h2, h4]

theorem spriteBit_of_rowBit {s : State} {x0 y0 r x y : Nat}
    (h : rowBit (s.memRead (s.dataAddress r)) x0 (y0 + r) 8 x y = true) : s.spriteBit x0 y0 r x y = false := by
  simp only [rowBit, Bool.and_eq_true, decide_eq_true_eq] at h
  have h1 : ¬ (x0 ≤ x ∧ x < x0 + 8 ∧ y0 ≤ y ∧ y < y0 + r) := by omega
  simp [State.spriteBit, h1]

/-- Drawing flips exactly the cells under set bits of the sprite (R191). -/
theorem drawRows_cell (s : State) (x0 y0 n : Nat) (c : Canvas) (x : Fin 64) (y : Fin 32) :
    (s.drawRows x0 y0 n c).cell x y = (c.cell x y ^^ s.spriteBit x0 y0 n x.val y.val) := by
  induction n with
  | zero =>
    have : ¬ (x0 ≤ x.val ∧ x.val < x0 + 8 ∧ y0 ≤ y.val ∧ y.val < y0 + 0) := by omega
    simp only [State.drawRows, State.spriteBit, decide_eq_false this, Bool.false_and, Bool.xor_false]
  | succ r ih => simp only [State.drawRows, drawRow_cell, ih, spriteBit_succ, Bool.xor_assoc]

/-- Drawing collides exactly when a set bit of the sprite falls on a lit cell of the screen (R191). -/
theorem drawRows_collision (s : State) (x0 y0 n : Nat) (c : Canvas) :
    (s.drawRows x0 y0 n c).collision = true ↔
      c.collision = true ∨ ∃ (x : Fin 64) (y : Fin 32), s.spriteBit x0 y0 n x.val y.val = true ∧ c.cell x y = true := by
  induction n with
  | zero =>
    simp only [State.drawRows, iff_self_or]
    rintro ⟨x, y, h, -⟩
    simp only [State.spriteBit, Bool.and_eq_true, decide_eq_true_eq] at h
    omega
  | succ r ih =>
    simp only [State.drawRows, drawRow_collision, ih, or_assoc, drawRows_cell]
    refine or_congr Iff.rfl ⟨?_, ?_⟩
    · rintro (⟨x, y, h, e⟩ | ⟨x, y, h, e⟩)
      · refine ⟨x, y, ?_, e⟩
        rw [spriteBit_succ, h]
        cases hr : rowBit (s.memRead (s.dataAddress r)) x0 (y0 + r) 8 x.val y.val with
        | false => rfl
        | true => simp [spriteBit_of_rowBit hr] at h
      · have h0 := spriteBit_of_rowBit h
        exact ⟨x, y, by rw [spriteBit_succ, h, h0]; rfl, by simpa [h0] using e⟩
    · rintro ⟨x, y, h, e⟩
      rw [spriteBit_succ] at h
      cases hr : rowBit (s.memRead (s.dataAddress r)) x0 (y0 + r) 8 x.val y.val with
      | false => rw [hr, Bool.xor_false] at h; exact .inl ⟨x, y, h, e⟩
      | true => exact .inr ⟨x, y, hr, by simpa [spriteBit_of_rowBit hr] using e⟩

/-- Two framebuffers with equal cells are equal. -/
theorem fb_ext {f g : Vector Bool 2048}
    (h : ∀ (x : Fin 64) (y : Fin 32), f[y.val * 64 + x.val] = g[y.val * 64 + x.val]) : f = g := by
  apply Vector.ext
  intro j hj
  have := h ⟨j % 64, Nat.mod_lt _ (by decide)⟩ ⟨j / 64, by omega⟩
  have e : j / 64 * 64 + j % 64 = j := Nat.div_add_mod' j 64
  simpa only [e] using this

end Sys2Proof.Machine
end

