-- ==== Sys2Proof/Laws/PerInstr.lean ====
section
/-! SUPPORT. Laws stated per instruction. The family RowEncoding: the word of a well-formed instruction is taken by its own
row of the opcode table and by no other row (30_encoding.md R73). -/

namespace Sys2Proof.Laws

/-- The table's mnemonic of an instruction, as LAWS.json maps the constructors. -/
def mnemonicOf : Instr → String
  | .cls => "CLS"
  | .ret => "RET"
  | .jp _ => "JP_NNN"
  | .call _ => "CALL_NNN"
  | .seImm _ _ => "SE_Vx__NN"
  | .sneImm _ _ => "SNE_Vx__NN"
  | .seReg _ _ => "SE_Vx__Vy"
  | .ldImm _ _ => "LD_Vx__NN"
  | .addImm _ _ => "ADD_Vx__NN"
  | .ldReg _ _ => "LD_Vx__Vy"
  | .orReg _ _ => "OR_Vx__Vy"
  | .andReg _ _ => "AND_Vx__Vy"
  | .xorReg _ _ => "XOR_Vx__Vy"
  | .addReg _ _ => "ADD_Vx__Vy"
  | .subReg _ _ => "SUB_Vx__Vy"
  | .shr _ _ => "SHR_Vx____Vy"
  | .subnReg _ _ => "SUBN_Vx__Vy"
  | .shl _ _ => "SHL_Vx____Vy"
  | .sneReg _ _ => "SNE_Vx__Vy"
  | .ldI _ => "LD_I__NNN"
  | .jpV0 _ => "JP_V0__NNN"
  | .rnd _ _ => "RND_Vx__NN"
  | .drw _ _ _ => "DRW_Vx__Vy__N"
  | .skp _ => "SKP_Vx"
  | .sknp _ => "SKNP_Vx"
  | .ldVxDT _ => "LD_Vx__DT"
  | .ldVxK _ => "LD_Vx__K"
  | .ldDTVx _ => "LD_DT__Vx"
  | .ldSTVx _ => "LD_ST__Vx"
  | .addIVx _ => "ADD_I__Vx"
  | .ldFVx _ => "LD_F__Vx"
  | .ldBVx _ => "LD_B__Vx"
  | .ldMemVx _ => "LD__I___Vx"
  | .ldVxMem _ => "LD_Vx___I"
  | .unknown _ => "UNKNOWN"

/-- The rows that take the word of a well-formed instruction are those of its own mnemonic. -/
def RowEncoding.Statement (i : Instr) : Prop :=
  i.wellFormed = true → ∀ r ∈ opcodeRows, r.takes (encode i) = (r.mnemonic == mnemonicOf i)

theorem RowEncoding.cls : RowEncoding.Statement (.cls) := by
  intro _; simp [opcodeRows, opcodeRowsLow, opcodeRowsMid, opcodeRowsHigh, takes_F000, takes_F00F, takes_F0FF, takes_FFFF,
    familyField_ofNat, nField_ofNat, nnField_ofNat, nnnField_ofNat, encode, mnemonicOf]

theorem RowEncoding.ret : RowEncoding.Statement (.ret) := by
  intro _; simp [opcodeRows, opcodeRowsLow, opcodeRowsMid, opcodeRowsHigh, takes_F000, takes_F00F, takes_F0FF, takes_FFFF,
    familyField_ofNat, nField_ofNat, nnField_ofNat, nnnField_ofNat, encode, mnemonicOf]

theorem RowEncoding.jp (nnn : Addr) : RowEncoding.Statement (.jp nnn) := by
  intro _; simp [opcodeRows, opcodeRowsLow, opcodeRowsMid, opcodeRowsHigh, takes_F000, takes_F00F, takes_F0FF, takes_FFFF,
    familyField_ofNat, nField_ofNat, nnField_ofNat, nnnField_ofNat, encode, mnemonicOf]

theorem RowEncoding.call (nnn : Addr) : RowEncoding.Statement (.call nnn) := by
  intro _; simp [opcodeRows, opcodeRowsLow, opcodeRowsMid, opcodeRowsHigh, takes_F000, takes_F00F, takes_F0FF, takes_FFFF,
    familyField_ofNat, nField_ofNat, nnField_ofNat, nnnField_ofNat, encode, mnemonicOf]

theorem RowEncoding.seImm (x : Reg) (nn : Byte) : RowEncoding.Statement (.seImm x nn) := by
  intro _; simp [opcodeRows, opcodeRowsLow, opcodeRowsMid, opcodeRowsHigh, takes_F000, takes_F00F, takes_F0FF, takes_FFFF,
    familyField_ofNat, nField_ofNat, nnField_ofNat, nnnField_ofNat, encode, mnemonicOf]

theorem RowEncoding.sneImm (x : Reg) (nn : Byte) : RowEncoding.Statement (.sneImm x nn) := by
  intro _; simp [opcodeRows, opcodeRowsLow, opcodeRowsMid, opcodeRowsHigh, takes_F000, takes_F00F, takes_F0FF, takes_FFFF,
    familyField_ofNat, nField_ofNat, nnField_ofNat, nnnField_ofNat, encode, mnemonicOf]

theorem RowEncoding.seReg (x y : Reg) : RowEncoding.Statement (.seReg x y) := by
  intro _; simp [opcodeRows, opcodeRowsLow, opcodeRowsMid, opcodeRowsHigh, takes_F000, takes_F00F, takes_F0FF, takes_FFFF,
    familyField_ofNat, nField_ofNat, nnField_ofNat, nnnField_ofNat, encode, mnemonicOf]

theorem RowEncoding.ldImm (x : Reg) (nn : Byte) : RowEncoding.Statement (.ldImm x nn) := by
  intro _; simp [opcodeRows, opcodeRowsLow, opcodeRowsMid, opcodeRowsHigh, takes_F000, takes_F00F, takes_F0FF, takes_FFFF,
    familyField_ofNat, nField_ofNat, nnField_ofNat, nnnField_ofNat, encode, mnemonicOf]

theorem RowEncoding.addImm (x : Reg) (nn : Byte) : RowEncoding.Statement (.addImm x nn) := by
  intro _; simp [opcodeRows, opcodeRowsLow, opcodeRowsMid, opcodeRowsHigh, takes_F000, takes_F00F, takes_F0FF, takes_FFFF,
    familyField_ofNat, nField_ofNat, nnField_ofNat, nnnField_ofNat, encode, mnemonicOf]

theorem RowEncoding.ldReg (x y : Reg) : RowEncoding.Statement (.ldReg x y) := by
  intro _; simp [opcodeRows, opcodeRowsLow, opcodeRowsMid, opcodeRowsHigh, takes_F000, takes_F00F, takes_F0FF, takes_FFFF,
    familyField_ofNat, nField_ofNat, nnField_ofNat, nnnField_ofNat, encode, mnemonicOf]

theorem RowEncoding.orReg (x y : Reg) : RowEncoding.Statement (.orReg x y) := by
  intro _; simp [opcodeRows, opcodeRowsLow, opcodeRowsMid, opcodeRowsHigh, takes_F000, takes_F00F, takes_F0FF, takes_FFFF,
    familyField_ofNat, nField_ofNat, nnField_ofNat, nnnField_ofNat, encode, mnemonicOf]

theorem RowEncoding.andReg (x y : Reg) : RowEncoding.Statement (.andReg x y) := by
  intro _; simp [opcodeRows, opcodeRowsLow, opcodeRowsMid, opcodeRowsHigh, takes_F000, takes_F00F, takes_F0FF, takes_FFFF,
    familyField_ofNat, nField_ofNat, nnField_ofNat, nnnField_ofNat, encode, mnemonicOf]

theorem RowEncoding.xorReg (x y : Reg) : RowEncoding.Statement (.xorReg x y) := by
  intro _; simp [opcodeRows, opcodeRowsLow, opcodeRowsMid, opcodeRowsHigh, takes_F000, takes_F00F, takes_F0FF, takes_FFFF,
    familyField_ofNat, nField_ofNat, nnField_ofNat, nnnField_ofNat, encode, mnemonicOf]

theorem RowEncoding.addReg (x y : Reg) : RowEncoding.Statement (.addReg x y) := by
  intro _; simp [opcodeRows, opcodeRowsLow, opcodeRowsMid, opcodeRowsHigh, takes_F000, takes_F00F, takes_F0FF, takes_FFFF,
    familyField_ofNat, nField_ofNat, nnField_ofNat, nnnField_ofNat, encode, mnemonicOf]

theorem RowEncoding.subReg (x y : Reg) : RowEncoding.Statement (.subReg x y) := by
  intro _; simp [opcodeRows, opcodeRowsLow, opcodeRowsMid, opcodeRowsHigh, takes_F000, takes_F00F, takes_F0FF, takes_FFFF,
    familyField_ofNat, nField_ofNat, nnField_ofNat, nnnField_ofNat, encode, mnemonicOf]

theorem RowEncoding.shr (x y : Reg) : RowEncoding.Statement (.shr x y) := by
  intro _; simp [opcodeRows, opcodeRowsLow, opcodeRowsMid, opcodeRowsHigh, takes_F000, takes_F00F, takes_F0FF, takes_FFFF,
    familyField_ofNat, nField_ofNat, nnField_ofNat, nnnField_ofNat, encode, mnemonicOf]

theorem RowEncoding.subnReg (x y : Reg) : RowEncoding.Statement (.subnReg x y) := by
  intro _; simp [opcodeRows, opcodeRowsLow, opcodeRowsMid, opcodeRowsHigh, takes_F000, takes_F00F, takes_F0FF, takes_FFFF,
    familyField_ofNat, nField_ofNat, nnField_ofNat, nnnField_ofNat, encode, mnemonicOf]

theorem RowEncoding.shl (x y : Reg) : RowEncoding.Statement (.shl x y) := by
  intro _; simp [opcodeRows, opcodeRowsLow, opcodeRowsMid, opcodeRowsHigh, takes_F000, takes_F00F, takes_F0FF, takes_FFFF,
    familyField_ofNat, nField_ofNat, nnField_ofNat, nnnField_ofNat, encode, mnemonicOf]

theorem RowEncoding.sneReg (x y : Reg) : RowEncoding.Statement (.sneReg x y) := by
  intro _; simp [opcodeRows, opcodeRowsLow, opcodeRowsMid, opcodeRowsHigh, takes_F000, takes_F00F, takes_F0FF, takes_FFFF,
    familyField_ofNat, nField_ofNat, nnField_ofNat, nnnField_ofNat, encode, mnemonicOf]

theorem RowEncoding.ldI (nnn : Addr) : RowEncoding.Statement (.ldI nnn) := by
  intro _; simp [opcodeRows, opcodeRowsLow, opcodeRowsMid, opcodeRowsHigh, takes_F000, takes_F00F, takes_F0FF, takes_FFFF,
    familyField_ofNat, nField_ofNat, nnField_ofNat, nnnField_ofNat, encode, mnemonicOf]

theorem RowEncoding.jpV0 (nnn : Addr) : RowEncoding.Statement (.jpV0 nnn) := by
  intro _; simp [opcodeRows, opcodeRowsLow, opcodeRowsMid, opcodeRowsHigh, takes_F000, takes_F00F, takes_F0FF, takes_FFFF,
    familyField_ofNat, nField_ofNat, nnField_ofNat, nnnField_ofNat, encode, mnemonicOf]

theorem RowEncoding.rnd (x : Reg) (nn : Byte) : RowEncoding.Statement (.rnd x nn) := by
  intro _; simp [opcodeRows, opcodeRowsLow, opcodeRowsMid, opcodeRowsHigh, takes_F000, takes_F00F, takes_F0FF, takes_FFFF,
    familyField_ofNat, nField_ofNat, nnField_ofNat, nnnField_ofNat, encode, mnemonicOf]

theorem RowEncoding.drw (x y : Reg) (n : Fin 16) : RowEncoding.Statement (.drw x y n) := by
  intro _; simp [opcodeRows, opcodeRowsLow, opcodeRowsMid, opcodeRowsHigh, takes_F000, takes_F00F, takes_F0FF, takes_FFFF,
    familyField_ofNat, nField_ofNat, nnField_ofNat, nnnField_ofNat, encode, mnemonicOf]

theorem RowEncoding.skp (x : Reg) : RowEncoding.Statement (.skp x) := by
  intro _; simp [opcodeRows, opcodeRowsLow, opcodeRowsMid, opcodeRowsHigh, takes_F000, takes_F00F, takes_F0FF, takes_FFFF,
    familyField_ofNat, nField_ofNat, nnField_ofNat, nnnField_ofNat, encode, mnemonicOf]

theorem RowEncoding.sknp (x : Reg) : RowEncoding.Statement (.sknp x) := by
  intro _; simp [opcodeRows, opcodeRowsLow, opcodeRowsMid, opcodeRowsHigh, takes_F000, takes_F00F, takes_F0FF, takes_FFFF,
    familyField_ofNat, nField_ofNat, nnField_ofNat, nnnField_ofNat, encode, mnemonicOf]

theorem RowEncoding.ldVxDT (x : Reg) : RowEncoding.Statement (.ldVxDT x) := by
  intro _; simp [opcodeRows, opcodeRowsLow, opcodeRowsMid, opcodeRowsHigh, takes_F000, takes_F00F, takes_F0FF, takes_FFFF,
    familyField_ofNat, nField_ofNat, nnField_ofNat, nnnField_ofNat, encode, mnemonicOf]

theorem RowEncoding.ldVxK (x : Reg) : RowEncoding.Statement (.ldVxK x) := by
  intro _; simp [opcodeRows, opcodeRowsLow, opcodeRowsMid, opcodeRowsHigh, takes_F000, takes_F00F, takes_F0FF, takes_FFFF,
    familyField_ofNat, nField_ofNat, nnField_ofNat, nnnField_ofNat, encode, mnemonicOf]

theorem RowEncoding.ldDTVx (x : Reg) : RowEncoding.Statement (.ldDTVx x) := by
  intro _; simp [opcodeRows, opcodeRowsLow, opcodeRowsMid, opcodeRowsHigh, takes_F000, takes_F00F, takes_F0FF, takes_FFFF,
    familyField_ofNat, nField_ofNat, nnField_ofNat, nnnField_ofNat, encode, mnemonicOf]

theorem RowEncoding.ldSTVx (x : Reg) : RowEncoding.Statement (.ldSTVx x) := by
  intro _; simp [opcodeRows, opcodeRowsLow, opcodeRowsMid, opcodeRowsHigh, takes_F000, takes_F00F, takes_F0FF, takes_FFFF,
    familyField_ofNat, nField_ofNat, nnField_ofNat, nnnField_ofNat, encode, mnemonicOf]

theorem RowEncoding.addIVx (x : Reg) : RowEncoding.Statement (.addIVx x) := by
  intro _; simp [opcodeRows, opcodeRowsLow, opcodeRowsMid, opcodeRowsHigh, takes_F000, takes_F00F, takes_F0FF, takes_FFFF,
    familyField_ofNat, nField_ofNat, nnField_ofNat, nnnField_ofNat, encode, mnemonicOf]

theorem RowEncoding.ldFVx (x : Reg) : RowEncoding.Statement (.ldFVx x) := by
  intro _; simp [opcodeRows, opcodeRowsLow, opcodeRowsMid, opcodeRowsHigh, takes_F000, takes_F00F, takes_F0FF, takes_FFFF,
    familyField_ofNat, nField_ofNat, nnField_ofNat, nnnField_ofNat, encode, mnemonicOf]

theorem RowEncoding.ldBVx (x : Reg) : RowEncoding.Statement (.ldBVx x) := by
  intro _; simp [opcodeRows, opcodeRowsLow, opcodeRowsMid, opcodeRowsHigh, takes_F000, takes_F00F, takes_F0FF, takes_FFFF,
    familyField_ofNat, nField_ofNat, nnField_ofNat, nnnField_ofNat, encode, mnemonicOf]

theorem RowEncoding.ldMemVx (x : Reg) : RowEncoding.Statement (.ldMemVx x) := by
  intro _; simp [opcodeRows, opcodeRowsLow, opcodeRowsMid, opcodeRowsHigh, takes_F000, takes_F00F, takes_F0FF, takes_FFFF,
    familyField_ofNat, nField_ofNat, nnField_ofNat, nnnField_ofNat, encode, mnemonicOf]

theorem RowEncoding.ldVxMem (x : Reg) : RowEncoding.Statement (.ldVxMem x) := by
  intro _; simp [opcodeRows, opcodeRowsLow, opcodeRowsMid, opcodeRowsHigh, takes_F000, takes_F00F, takes_F0FF, takes_FFFF,
    familyField_ofNat, nField_ofNat, nnField_ofNat, nnnField_ofNat, encode, mnemonicOf]

/-- UNKNOWN is no row's mnemonic, and no row takes its word. -/
theorem RowEncoding.unknown (w : Word) : RowEncoding.Statement (.unknown w) := by
  intro h r hr
  have hn : r.takes w = false := by
    simp only [Instr.wellFormed, isUnknownWord, Bool.not_eq_true', List.any_eq_false, Bool.not_eq_true] at h
    exact h r hr
  have hm : ∀ r ∈ opcodeRows, (r.mnemonic == "UNKNOWN") = false := by decide
  rw [encode, hn, mnemonicOf, hm r hr]

end Sys2Proof.Laws
end

