-- ==== Sys2Proof/Laws/Step.lean ====
section
/-! SUPPORT. What a step can do, said once, and what the two instructions with cases do in each. -/

namespace Sys2Proof.Machine

/-- A step whose instruction answers next finishes that state. -/
theorem step_of_exec {s u : State} (h : exec (decodeWord s.fetch) s.clearResult = .next u) :
    step s = .next (u.finish (decodeWord s.fetch)) := by
  simp only [step, h]

/-- The same, for the instruction the word is known to be. -/
theorem step_of_decode {s u : State} {i : Instr} (hi : decodeWord s.fetch = i) (h : exec i s.clearResult = .next u) :
    step s = .next (u.finish i) := by
  subst hi; exact step_of_exec h

/-- A step that answers next ran its instruction and finished the state that it gave. -/
theorem step_inv {s t : State} (h : step s = .next t) :
    ∃ u, exec (decodeWord s.fetch) s.clearResult = .next u ∧ t = u.finish (decodeWord s.fetch) := by
  simp only [step] at h
  split at h
  · rename_i u hu
    exact ⟨u, hu, by simpa using h.symm⟩
  · cases h
  · cases h

/-- A run whose first step answers next goes on from there. -/
theorem run_succ {s t : State} (h : step s = .next t) (n : Nat) :
    Sys2Proof.core.run (n + 1) s = Sys2Proof.core.run n t := by
  have h' : Sys2Proof.core.step s = .next t := h
  simp only [Host.Core.run, h']

theorem execCall_of_free {s : State} (nnn : Addr) (free : s.sp.val < 16) :
    execCall nnn s = .next ((s.push s.pc free).jumpTo (zextAddr nnn)) := dif_pos free

theorem execCall_of_full {s : State} (nnn : Addr) (full : ¬ s.sp.val < 16) :
    execCall nnn s = .next (s.raiseDiagnostic (.stackOverflow (encode (.call nnn)))) := dif_neg full

theorem execRet_of_used {s : State} (used : 0 < s.sp.val) :
    execRet s = .next (s.pop.jumpTo (s.top used + 2)) := dif_pos used

theorem execRet_of_empty {s : State} (empty : ¬ 0 < s.sp.val) :
    execRet s = .next (s.raiseDiagnostic (.stackUnderflow (encode .ret))) := dif_neg empty

theorem execLdVxK_of_none {s : State} (x : Reg) (h : s.heldKey = none) : execLdVxK x s = .next s := by
  simp only [execLdVxK, h]

theorem execLdVxK_of_some {s : State} (x : Reg) {k : Nat} (h : s.heldKey = some k) :
    execLdVxK x s = .next (s.setReg x (BitVec.ofNat 8 k)).advance := by
  simp only [execLdVxK, h]

/-- No key is held, said of the latch. -/
theorem heldKey_eq_none (s : State) : s.heldKey = none ↔ ∀ k (h : k < 16), s.key[k] = false := by
  rw [State.heldKey, scanKeys_eq_none]
  refine forall_congr' fun k => forall_congr' fun h => ?_
  simp [State.held, h]

/-- The highest held key, said of the latch. -/
theorem heldKey_eq_some (s : State) (k : Nat) :
    s.heldKey = some k ↔
      ∃ h : k < 16, s.key[k] = true ∧ ∀ j (h' : j < 16), k < j → s.key[j] = false := by
  rw [State.heldKey, scanKeys_eq_some]
  constructor
  · rintro ⟨h, hk, hj⟩
    refine ⟨h, by simpa [State.held, h] using hk, fun j h' hlt => ?_⟩
    simpa [State.held, h'] using hj j hlt h'
  · rintro ⟨h, hk, hj⟩
    refine ⟨h, by simpa [State.held, h] using hk, fun j hlt h' => ?_⟩
    simpa [State.held, h'] using hj j h' hlt

end Sys2Proof.Machine
end

