-- ==== Sys2Proof/Tests/Slice0.lean ====
section
/-! SUPPORT. Tests and witnesses. The expected values are those of spec/95_test_vectors.md, whose line is named, or are
worked out by hand from the rule named. A witness shows that the hypotheses of a statement can be met together, for each
of its clauses at the ends of its range. Deep cells of the framebuffer need a larger recursion depth of the elaborator. -/

set_option maxRecDepth 20000

namespace Sys2Proof.Tests

open Sys2Proof Sys2Proof.Machine

/-- The reset state with some registers set. -/
def withRegs (l : List (Reg × Byte)) : State := l.foldl (fun s p => s.setReg p.1 p.2) State.reset

/-- The state after one step on a word placed at `PC`. -/
def after (w : Nat) (s : State) : State :=
  match step (s.withFetchWord 16 w) with
  | .next t => t
  | .fault _ => s
  | .refused _ => s

/-- The key latch with the listed keys held. -/
def holding (l : List (Fin 16)) (s : State) : State := l.foldl (fun s k => s.setKey k true) s

/-! ### Well-formedness: a term that stands for no word is refused -/

theorem test_wellFormed_refuses_cls_as_unknown : (Instr.unknown 0x00E0#16).wellFormed = false := by decide
theorem test_wellFormed_refuses_call_as_unknown : (Instr.unknown 0x2345#16).wellFormed = false := by decide
theorem test_wellFormed_refuses_shl_as_unknown : (Instr.unknown 0x812E#16).wellFormed = false := by decide
theorem test_wellFormed_refuses_dump_as_unknown : (Instr.unknown 0xF355#16).wellFormed = false := by decide
theorem test_wellFormed_accepts_unknown :
    (Instr.unknown 0x0000#16).wellFormed = true ∧ (Instr.unknown 0x5121#16).wellFormed = true ∧
    (Instr.unknown 0xFFFF#16).wellFormed = true := by decide

/-! ### Decoding: every row's word, written out bit by bit from R73, with X = 10, Y = 4, N = 9, NN = 0xC6, NNN = 0x5A3
wherever the row has that field -/

theorem test_decode_families_0_to_7 :
    decodeWord 0b0000000011100000#16 = .cls ∧
    decodeWord 0b0000000011101110#16 = .ret ∧
    decodeWord 0b0001010110100011#16 = .jp 0x5A3#12 ∧
    decodeWord 0b0010010110100011#16 = .call 0x5A3#12 ∧
    decodeWord 0b0011101011000110#16 = .seImm 10 0xC6#8 ∧
    decodeWord 0b0100101011000110#16 = .sneImm 10 0xC6#8 ∧
    decodeWord 0b0101101001000000#16 = .seReg 10 4 ∧
    decodeWord 0b0110101011000110#16 = .ldImm 10 0xC6#8 ∧
    decodeWord 0b0111101011000110#16 = .addImm 10 0xC6#8 := by decide

theorem test_decode_family_8 :
    decodeWord 0b1000101001000000#16 = .ldReg 10 4 ∧
    decodeWord 0b1000101001000001#16 = .orReg 10 4 ∧
    decodeWord 0b1000101001000010#16 = .andReg 10 4 ∧
    decodeWord 0b1000101001000011#16 = .xorReg 10 4 ∧
    decodeWord 0b1000101001000100#16 = .addReg 10 4 ∧
    decodeWord 0b1000101001000101#16 = .subReg 10 4 ∧
    decodeWord 0b1000101001000110#16 = .shr 10 4 ∧
    decodeWord 0b1000101001000111#16 = .subnReg 10 4 ∧
    decodeWord 0b1000101001001110#16 = .shl 10 4 := by decide

theorem test_decode_families_9_to_D :
    decodeWord 0b1001101001000000#16 = .sneReg 10 4 ∧
    decodeWord 0b1010010110100011#16 = .ldI 0x5A3#12 ∧
    decodeWord 0b1011010110100011#16 = .jpV0 0x5A3#12 ∧
    decodeWord 0b1100101011000110#16 = .rnd 10 0xC6#8 ∧
    decodeWord 0b1101101001001001#16 = .drw 10 4 9 := by decide

theorem test_decode_families_E_and_F :
    decodeWord 0b1110101010011110#16 = .skp 10 ∧
    decodeWord 0b1110101010100001#16 = .sknp 10 ∧
    decodeWord 0b1111101000000111#16 = .ldVxDT 10 ∧
    decodeWord 0b1111101000001010#16 = .ldVxK 10 ∧
    decodeWord 0b1111101000010101#16 = .ldDTVx 10 ∧
    decodeWord 0b1111101000011000#16 = .ldSTVx 10 ∧
    decodeWord 0b1111101000011110#16 = .addIVx 10 ∧
    decodeWord 0b1111101000101001#16 = .ldFVx 10 ∧
    decodeWord 0b1111101000110011#16 = .ldBVx 10 ∧
    decodeWord 0b1111101001010101#16 = .ldMemVx 10 ∧
    decodeWord 0b1111101001100101#16 = .ldVxMem 10 := by decide

/-- The words of table V-DEC that no row takes, and the fields of DEC14 and DEC15. -/
theorem test_decode_strict :
    decodeWord 0x0000#16 = .unknown 0x0000#16 ∧ decodeWord 0x00E1#16 = .unknown 0x00E1#16 ∧
    decodeWord 0x0123#16 = .unknown 0x0123#16 ∧ decodeWord 0x5121#16 = .unknown 0x5121#16 ∧
    decodeWord 0x912F#16 = .unknown 0x912F#16 ∧ decodeWord 0x8128#16 = .unknown 0x8128#16 ∧
    decodeWord 0x812F#16 = .unknown 0x812F#16 ∧ decodeWord 0xE19F#16 = .unknown 0xE19F#16 ∧
    decodeWord 0xF175#16 = .unknown 0xF175#16 ∧ decodeWord 0xFFFF#16 = .unknown 0xFFFF#16 ∧
    decodeWord 0xB123#16 = .jpV0 0x123#12 ∧ decodeWord 0xDAB0#16 = .drw 10 11 0 := by decide

/-- The bytes of a word, the more significant first, and what is left over; a short sequence is refused (R51, R70). -/
theorem test_decode_bytes :
    decode [0x60#8, 0x0A#8, 0xA2#8, 0x50#8] = .ok (.ldImm 0 0x0A#8, [0xA2#8, 0x50#8]) ∧
    decode [0x60#8] = .error .fewerThanTwoBytes ∧ decodeTableWord 16 0x600A = some (.ldImm 0 0x0A#8) ∧
    decodeTableWord 24 0x600A = none := by decide

/-! ### Control flow (V-CF) -/

theorem test_jp_odd_target : (after 0x1201 State.reset).pc = 0x201#16 := by decide -- CF2
theorem test_jp_last_word : -- CF3
    (after 0x1FFF State.reset).pc = 0xFFF#16 ∧ (after 0x1FFF State.reset).fetch = 0x00F0#16 := by decide
theorem test_call_last_entry : -- CF5
    let t := after 0x2300 { State.reset with sp := 15 }
    t.stack[15] = 0x200#16 ∧ t.sp = 16 ∧ t.pc = 0x300#16 ∧ t.result = .ok := by decide
theorem test_call_full : -- CF6
    let t := after 0x2300 { State.reset with sp := 16 }
    t.result = .diagnostic (.stackOverflow 0x2300#16) ∧ t.pc = 0x202#16 ∧ t.sp = 16 ∧ t.stack[15] = 0 := by decide
theorem test_ret : -- CF7
    let t := after 0x00EE (State.reset.push 0x250#16 (by decide))
    t.sp = 0 ∧ t.pc = 0x252#16 ∧ t.stack[0] = 0x250#16 := by decide
theorem test_ret_empty : -- CF8
    let t := after 0x00EE State.reset
    t.result = .diagnostic (.stackUnderflow 0x00EE#16) ∧ t.pc = 0x202#16 ∧ t.sp = 0 := by decide
theorem test_seImm : -- CF9, CF10
    (after 0x3342 (withRegs [(3, 0x42)])).pc = 0x204#16 ∧ (after 0x3342 (withRegs [(3, 0x41)])).pc = 0x202#16 := by decide
theorem test_sneImm : -- CF11, CF12
    (after 0x4342 (withRegs [(3, 0x42)])).pc = 0x202#16 ∧ (after 0x4342 (withRegs [(3, 0x41)])).pc = 0x204#16 := by decide
theorem test_seReg : -- CF14, CF15
    (after 0x5120 (withRegs [(1, 9), (2, 9)])).pc = 0x204#16 ∧
    (after 0x5120 (withRegs [(1, 9), (2, 8)])).pc = 0x202#16 := by decide
theorem test_sneReg : -- CF17, CF18
    (after 0x9120 (withRegs [(1, 9), (2, 8)])).pc = 0x204#16 ∧
    (after 0x9120 (withRegs [(1, 9), (2, 9)])).pc = 0x202#16 := by decide
theorem test_jpV0_unreduced : (after 0xBFFF (withRegs [(0, 0xFF)])).pc = 0x10FE#16 := by decide -- CF20

/-! ### Arithmetic, logic and random (V-ALU) -/

theorem test_ldImm : (after 0x600A State.reset).v[0] = 0x0A ∧ (after 0x600A State.reset).pc = 0x202#16 := by decide -- S1
theorem test_addImm_wraps_without_flag : -- ALU2
    let t := after 0x7203 (withRegs [(2, 0xFE), (15, 0x55)])
    t.v[2] = 0x01 ∧ t.v[15] = 0x55 := by decide
theorem test_ldReg : (after 0x8120 (withRegs [(1, 0x11), (2, 0x22)])).v[1] = 0x22 := by decide -- ALU4
theorem test_orReg_keeps_flag : -- ALU5
    let t := after 0x8121 (withRegs [(1, 0x0F), (2, 0xF0), (15, 0x07)])
    t.v[1] = 0xFF ∧ t.v[15] = 0x07 := by decide
theorem test_andReg : (after 0x8122 (withRegs [(1, 0x3C), (2, 0x0F)])).v[1] = 0x0C := by decide -- ALU6
theorem test_xorReg : (after 0x8123 (withRegs [(1, 0x3C), (2, 0x0F)])).v[1] = 0x33 := by decide -- ALU7
theorem test_addReg_result_wins_in_VF : (after 0x8F14 (withRegs [(1, 0x01), (15, 0xFF)])).v[15] = 0 := by decide -- ALU11
theorem test_addReg_reads_VF_first : -- ALU12
    let t := after 0x81F4 (withRegs [(1, 0x80), (15, 0x80)])
    t.v[15] = 1 ∧ t.v[1] = 0 := by decide
theorem test_subReg_equal : -- ALU13
    let t := after 0x8125 (withRegs [(1, 7), (2, 7)])
    t.v[1] = 0 ∧ t.v[15] = 1 := by decide
theorem test_subReg_borrow : -- ALU14
    let t := after 0x8125 (withRegs [(1, 0), (2, 1)])
    t.v[1] = 0xFF ∧ t.v[15] = 0 := by decide
theorem test_subnReg : -- ALU16
    let t := after 0x8127 (withRegs [(1, 5), (2, 10)])
    t.v[1] = 5 ∧ t.v[15] = 1 := by decide
theorem test_subnReg_borrow : -- ALU17
    let t := after 0x8127 (withRegs [(1, 10), (2, 5)])
    t.v[1] = 0xFB ∧ t.v[15] = 0 := by decide
theorem test_shr_ignores_Y : -- ALU20
    let t := after 0x8126 (withRegs [(1, 0x04), (2, 0xFF)])
    t.v[1] = 0x02 ∧ t.v[15] = 0 ∧ t.v[2] = 0xFF := by decide
theorem test_shr_bit_out : -- ALU19
    let t := after 0x8106 (withRegs [(1, 0x05)])
    t.v[1] = 0x02 ∧ t.v[15] = 1 := by decide
theorem test_shl_bit_out : -- ALU24
    let t := after 0x812E (withRegs [(1, 0x81)])
    t.v[1] = 0x02 ∧ t.v[15] = 1 ∧ t.v[2] = 0 := by decide
theorem test_shl_no_bit_out : -- ALU23
    let t := after 0x810E (withRegs [(1, 0x7F)])
    t.v[1] = 0xFE ∧ t.v[15] = 0 := by decide
/-- ALU26 for any draw: the free byte stays free and the mask 0 gives 0. -/
theorem test_rnd_masks : ∃ t, execRnd 1 0x00 State.reset = .next t ∧ t.v[1] = 0 ∧ t.rndDraws = 1 :=
  ⟨_, rfl, by show State.reg _ 1 = _; simp, rfl⟩

/-! ### The index register and memory (V-IM) -/

theorem test_ldI : (after 0xAFFF State.reset).i = 0xFFF#16 := by decide -- IM2
theorem test_addIVx_wraps : -- IM5
    let t := after 0xF11E { withRegs [(1, 2)] with i := 0xFFFF }
    t.i = 0x0001#16 ∧ t.v[15] = 1 := by decide
theorem test_addIVx_reads_VF_first : -- IM6
    let t := after 0xFF1E { withRegs [(15, 0x10)] with i := 0x0FF0 }
    t.i = 0x1000#16 ∧ t.v[15] = 1 := by decide
theorem test_ldFVx : -- IM8, IM10
    (after 0xF329 (withRegs [(3, 0x0F)])).i = 0x04B#16 ∧ (after 0xF329 (withRegs [(3, 0xFF)])).i = 0x4FB#16 := by decide
theorem test_ldBVx : -- S4
    let t := after 0xF033 { withRegs [(0, 234)] with i := 0x300 }
    t.memRead 0x300 = 2 ∧ t.memRead 0x301 = 3 ∧ t.memRead 0x302 = 4 ∧ t.i = 0x300#16 := by decide
theorem test_ldBVx_wraps : -- IM14
    let t := after 0xF033 { withRegs [(0, 123)] with i := 0xFFF }
    t.memRead 0xFFF = 1 ∧ t.memRead 0x000 = 2 ∧ t.memRead 0x001 = 3 ∧ t.i = 0xFFF#16 := by decide
theorem test_ldMemVx_wraps : -- IM17
    let t := after 0xF255 { withRegs [(0, 1), (1, 2), (2, 3)] with i := 0xFFE }
    t.memRead 0xFFE = 1 ∧ t.memRead 0xFFF = 2 ∧ t.memRead 0x000 = 3 ∧ t.i = 0x1001#16 := by decide
theorem test_ldVxMem_glyph : -- IM19
    let t := after 0xF465 State.reset
    t.v[0] = 0xF0 ∧ t.v[1] = 0x90 ∧ t.v[4] = 0xF0 ∧ t.v[5] = 0 ∧ t.i = 0x005#16 := by decide

/-! ### Display (V-DISP) -/

theorem test_cls : -- DISP2
    let t := after 0x00E0 { State.reset with fb := State.reset.fb.set 69 true, dirty := false }
    t.fb[69] = false ∧ t.dirty = true := by decide
theorem test_drw_clips : -- DISP6
    let t := after 0xD011 (withRegs [(0, 62)])
    t.fb[62] = true ∧ t.fb[63] = true ∧ t.fb[64] = false ∧ t.v[15] = 0 := by decide
theorem test_drw_reads_VF_first : -- DISP10
    let t := after 0xDF11 ({ withRegs [(15, 8)] with i := 0x300 }.memWrite 0x300 0xFF)
    t.fb[7] = false ∧ t.fb[8] = true ∧ t.fb[15] = true ∧ t.fb[16] = false ∧ t.v[15] = 0 := by decide

/-! ### Keypad and timers (V-KT) -/

theorem test_skp : -- KT1, KT2
    (after 0xE59E (holding [7] (withRegs [(5, 7)]))).pc = 0x204#16 ∧
    (after 0xE59E (withRegs [(5, 7)])).pc = 0x202#16 := by decide
theorem test_skp_above_15 : -- KT5
    (after 0xE59E { withRegs [(5, 0x10)] with key := Vector.replicate 16 true }).pc = 0x202#16 := by decide
theorem test_sknp : -- KT3, KT4
    (after 0xE5A1 (withRegs [(5, 7)])).pc = 0x204#16 ∧
    (after 0xE5A1 (holding [7] (withRegs [(5, 7)]))).pc = 0x202#16 := by decide
theorem test_ldVxDT : -- KT7
    let t := after 0xF207 { State.reset with dt := 9 }
    t.v[2] = 9 ∧ t.dt = 8 := by decide
theorem test_ldVxK_blocked : -- KT9
    let t := after 0xF30A { State.reset with dt := 3 }
    t.result = .ok ∧ t.pc = 0x200#16 ∧ t.v[3] = 0 ∧ t.mode = .waitingForKey ∧ t.dt = 2 := by decide
theorem test_ldVxK_highest : -- KT10
    let t := after 0xF10A (holding [3, 9] State.reset)
    t.v[1] = 9 ∧ t.pc = 0x202#16 ∧ t.mode = .running := by decide
theorem test_ldDTVx : (after 0xF115 (withRegs [(1, 60)])).dt = 59 := by decide -- KT13
theorem test_ldSTVx_beeps : -- KT17
    (after 0xF118 (withRegs [(1, 1)])).st = 0 ∧ (after 0xF118 (withRegs [(1, 1)])).beep = true := by decide
theorem test_ldSTVx_silent : -- KT18
    (after 0xF118 State.reset).st = 0 ∧ (after 0xF118 State.reset).beep = false := by decide
theorem test_unknown_ticks : -- V-DEC, the line below the table
    let t := after 0xFFFF { State.reset with dt := 2 }
    t.result = .diagnostic (.unknownOpcode 0xFFFF#16) ∧ t.pc = 0x202#16 ∧ t.dt = 1 := by decide
theorem test_unknown_from_reset : -- H7
    ∃ t, step State.reset = .next t ∧ t.result = .diagnostic (.unknownOpcode 0x0000#16) ∧ t.pc = 0x202#16 :=
  ⟨_, rfl, by decide, by decide⟩

/-! ### The host (V-HOST) -/

theorem test_load_keeps_later_bytes : -- H5
    let t := (State.reset.load (.bytes [1, 2, 3, 4, 5, 6])).load (.bytes [0x12, 0x34])
    t.memRead 0x200 = 0x12 ∧ t.memRead 0x201 = 0x34 ∧ t.memRead 0x202 = 3 ∧ t.memRead 0x205 = 6 := by decide
theorem test_load_too_long : loadResult (.bytes (List.replicate 3585 0)) = .romTooLarge := by -- H3
  simp [loadResult]
theorem test_initialize : -- H6
    let t := (holding [3] { State.reset with pc := 0x456, mode := .waitingForKey, dirty := false }).reinitialize
    t.pc = 0x200#16 ∧ t.key[3] = false ∧ t.mode = .running ∧ t.dirty = true := by decide

/-! ### Witnesses: encoding and the step -/

theorem witness_DecodeUndoesEncode :
    Instr.cls.wellFormed = true ∧ (Instr.drw 15 15 15).wellFormed = true ∧
    (Instr.unknown 0x0000#16).wellFormed = true ∧ (Instr.unknown 0xFFFF#16).wellFormed = true := by decide
theorem witness_DecodeTable :
    (0x000#12 ≠ 0x0E0#12 ∧ 0x000#12 ≠ 0x0EE#12) ∧ (0xFFF#12 ≠ 0x0E0#12 ∧ 0xFFF#12 ≠ 0x0EE#12) := by decide
theorem witness_OpcodeRowsDisjointAndFollowed :
    (∃ r ∈ opcodeRows, r.takes 0x00E0#16 = true) ∧ (∃ r ∈ opcodeRows, r.takes 0xF065#16 = true) ∧
    (∀ r ∈ opcodeRows, r.takes 0xFFFF#16 = false) ∧ isUnknown (decodeWord 0xFFFF#16) = true := by decide
theorem witness_StepRunsDecodedInstruction :
    decode [(State.reset.withFetchWord 16 0x600A).memRead 0x200, (State.reset.withFetchWord 16 0x600A).memRead 0x201] =
      .ok (.ldImm 0 0x0A#8, []) := by decide
theorem witness_FetchIsBigEndianAndWraps : ({ State.reset with pc := 0x0FFF } : State).pc = 0x0FFF#16 := by decide
theorem witness_WaitsExactlyWhenNoKeyHeld :
    decodeWord (State.reset.withFetchWord 16 0xF30A).fetch = .ldVxK 3 ∧
    (∀ k (h : k < 16), (State.reset.withFetchWord 16 0xF30A).key[k] = false) ∧
    (after 0xF30A State.reset).mode = .waitingForKey ∧ (after 0x6000 State.reset).mode = .running := by decide
theorem witness_PcAdvancesByTwo :
    isTransfer (decodeWord (State.reset.withFetchWord 16 0x6001).fetch) = false ∧
    isTransfer (decodeWord (State.reset.withFetchWord 16 0xF30A).fetch) = false ∧
    (after 0x6001 { State.reset with pc := 0xFFFE }).pc = 0x0000#16 ∧ (after 0xF30A State.reset).pc = 0x200#16 ∧
    (after 0xF30A (holding [15] State.reset)).pc = 0x202#16 := by decide
theorem witness_TimersCountDownEveryStep :
    decodeWord (State.reset.withFetchWord 16 0xF115).fetch = .ldDTVx 1 ∧
    decodeWord (State.reset.withFetchWord 16 0xF118).fetch = .ldSTVx 1 ∧
    decodeWord (State.reset.withFetchWord 16 0x6000).fetch = .ldImm 0 0#8 ∧
    (after 0x6000 { State.reset with dt := 255, st := 255 }).dt = 254 ∧ -- KT19
    (after 0x6000 { State.reset with dt := 255, st := 255 }).beep = false ∧
    (after 0x6000 { State.reset with st := 1 }).beep = true := by decide

/-! ### Witnesses: instructions -/

theorem witness_CallPushesOwnAddress :
    State.reset.sp.val < 16 ∧ ({ State.reset with sp := 15 } : State).sp.val < 16 ∧
    ({ State.reset with sp := 16 } : State).sp.val = 16 := by decide
theorem witness_ReturnPopsAndAddsTwo :
    ({ State.reset with sp := 1 } : State).sp.val = 0 + 1 ∧ ({ State.reset with sp := 16 } : State).sp.val = 15 + 1 ∧
    State.reset.sp.val = 0 := by decide
theorem witness_flag_clauses : (0 : Reg) ≠ 15 ∧ (14 : Reg) ≠ 15 := by decide -- ADD, SUB, SUBN, SHR, SHL
theorem witness_RandomByteIsMasked : 7 < 8 ∧ (0x0F#8).getLsbD 7 = false ∧ (0x00#8).getLsbD 0 = false := by decide
theorem witness_DecimalStore :
    ¬ stored 0xFFF 3 0xFFE ∧ ¬ stored 0xFFF 3 0x002 ∧ stored 0xFFF 3 0x001 := by
  refine ⟨?_, ?_, 2, by decide, by decide⟩ <;> rintro ⟨k, hk, h⟩ <;> simp only [Config.memorySize] at h <;> omega
theorem witness_RegisterDump :
    ((15 : Reg).val ≤ (15 : Reg).val ∧ ¬ stored 0x300 16 0x310) ∧ (0 : Reg).val ≤ (0 : Reg).val ∧
    ¬ stored 0x300 1 0x301 := by
  refine ⟨⟨by decide, ?_⟩, by decide, ?_⟩ <;> rintro ⟨k, hk, h⟩ <;> simp only [Config.memorySize] at h <;> omega
theorem witness_RegisterLoad : -- IM18
    let t := after 0xFF65 ({ State.reset with i := 0x300 }.storeBytes 0x300 [0x10, 0x11, 0x12, 0x13, 0x14, 0x15])
    t.v[0] = 0x10 ∧ t.v[5] = 0x15 ∧ t.v[6] = 0 ∧ t.i = 0x310#16 := by decide
theorem witness_DrawXorsClippedSprite : -- DISP13
    let s := { State.reset with fb := State.reset.fb.set 67 true }
    s.cell 3 1 = true ∧ s.spriteBit 0 0 5 3 1 = true ∧ s.spriteBit 0 0 5 8 1 = false ∧
    (after 0xD015 s).v[15] = 1 := by decide
theorem witness_DrawTwiceRestores :
    (14 : Reg) ≠ 15 ∧ (0 : Reg) ≠ 15 ∧ (∀ j (h : j < 2048), State.reset.fb[j] = false) ∧
    State.reset.spriteBit 0 0 5 0 0 = true := by
  refine ⟨by decide, by decide, fun j h => ?_, by decide⟩
  show (Vector.replicate 2048 false)[j] = false
  simp
theorem witness_KeySkips :
    (∃ h : (15#8).toNat < 16, (holding [15] State.reset).key[(15#8).toNat] = true) ∧
    ¬ ∃ h : (16#8).toNat < 16, (holding [15] State.reset).key[(16#8).toNat] = true := by decide
theorem witness_ReadDelayTimer : decodeWord (State.reset.withFetchWord 16 0xFF07).fetch = .ldVxDT 15 := by decide
theorem witness_SetTimers :
    decodeWord (State.reset.withFetchWord 16 0xF015).fetch = .ldDTVx 0 ∧
    decodeWord (State.reset.withFetchWord 16 0xFF18).fetch = .ldSTVx 15 := by decide
theorem witness_WaitForKeyTakesHighestHeld :
    (∀ k (h : k < 16), State.reset.key[k] = false) ∧
    (holding [0] State.reset).key[0] = true ∧
    (∀ j (h : j < 16), 0 < j → (holding [0] State.reset).key[j] = false) ∧
    (holding [3, 15] State.reset).key[15] = true ∧
    (∀ j (h : j < 16), 15 < j → (holding [3, 15] State.reset).key[j] = false) := by decide
theorem witness_UnknownReportsItsWord :
    (∀ r ∈ opcodeRows, r.takes 0x0000#16 = false) ∧ (∀ r ∈ opcodeRows, r.takes 0xFFFF#16 = false) ∧
    (State.reset.withFetchWord 16 0xFFFF).fetch = 0xFFFF#16 := by decide
theorem witness_DiagnosticsReported :
    (after 0x00EE State.reset).result = .diagnostic (.stackUnderflow 0x00EE#16) ∧
    (after 0x2FFF { State.reset with sp := 16 }).result = .diagnostic (.stackOverflow 0x2FFF#16) ∧
    (after 0x2FFF { State.reset with result := .diagnostic (.unknownOpcode 0) }).result = .ok := by decide
theorem witness_DiagnosticsArePrecise :
    ∃ t, step State.reset = .next t ∧ t.result ≠ .ok := ⟨_, rfl, by decide⟩

/-! ### Witnesses: the state as a whole -/

theorem witness_Inv : Inv State.reset := ⟨rfl, fun h => (by cases h), fun h => (by cases h)⟩
theorem witness_StepKeepsInvariant : Inv State.reset ∧ ∃ t, step State.reset = .next t := ⟨witness_Inv, _, rfl⟩
/-- A state that is not the reset state meets the invariant: one that lists a byte, beeps and waits for a key. -/
theorem witness_Inv_elsewhere :
    Inv { State.reset.memWrite 0xFFF 1 with beep := true, mode := .waitingForKey } :=
  ⟨memWrite_mem_wf rfl _ _, fun _ => rfl, fun _ => rfl⟩
theorem witness_HostCallsKeepInvariant :
    Inv State.reset ∧ perform (some State.reset) .engineMode = .next (State.reset, .observed .running) :=
  ⟨witness_Inv, rfl⟩
theorem witness_OnlyNamedInstructionsWrite :
    (0 : Reg) ∉ destinations (.addReg 1 2) ∧ (after 0xA300 State.reset).i ≠ State.reset.i ∧
    (after 0x2300 State.reset).sp ≠ State.reset.sp ∧
    (after 0x00E0 { State.reset with dirty := false }).dirty ≠ false ∧ State.reset.dirty = true ∧
    (after 0xF033 { withRegs [(0, 234)] with i := 0x300 }).memRead 0x300 ≠ State.reset.memRead 0x300 ∧
    (after 0xC000 State.reset).rndDraws ≠ State.reset.rndDraws := by decide
theorem witness_EntriesAboveTopUnobservable :
    sameBelowTop { State.reset with sp := 1 }
      { State.reset with sp := 1, stack := State.reset.stack.set 1 0x1234#16 } := by
  refine ⟨rfl, fun k h hk => ?_⟩
  have : k = 0 := by have : k < 1 := hk; omega
  subst this; rfl
theorem witness_MemoryIsCanonical :
    (State.reset.mem.put 0x300 5).wf = true ∧ ((State.reset.mem.put 0x300 7).put 0x300 5).wf = true ∧
    ((State.reset.mem.put 0x300 7).put 0x300 5).get 0x300 = (State.reset.mem.put 0x300 5).get 0x300 ∧
    ((State.reset.mem.put 0x300 7).put 0x300 0) = State.reset.mem := by decide

/-! ### Witnesses: sequences of steps and the host -/

theorem witness_BlockedWaitHoldsEverythingButTimers :
    decodeWord (State.reset.withFetchWord 16 0xFF0A).fetch = .ldVxK 15 ∧
    ∀ k (h : k < 16), (State.reset.withFetchWord 16 0xFF0A).key[k] = false := by decide
theorem witness_HeldKeyEndsWait :
    15 < 16 ∧ decodeWord ((holding [15] State.reset).withFetchWord 16 0xF00A).fetch = .ldVxK 0 ∧
    ((holding [15] State.reset).withFetchWord 16 0xF00A).key[15] = true := by decide
theorem witness_CallThenReturn : -- S9, at the deepest level and at the end of memory
    let s := ({ State.reset with sp := 15 }.withFetchWord 16 0x2FFE).storeBytes 0xFFE [0x00#8, 0xEE#8]
    s.sp.val < 16 ∧ decodeWord s.fetch = .call 0xFFE#12 ∧ s.memRead 0xFFE = 0x00#8 ∧ s.memRead 0xFFF = 0xEE#8 := by decide
theorem witness_DumpThenLoadRestores :
    ∃ t u, exec (.ldMemVx 15) State.reset = .next t ∧ u = { t with i := State.reset.i } ∧ u.mem = t.mem ∧
      u.i = State.reset.i ∧ (15 : Reg).val ≤ (15 : Reg).val := ⟨_, _, rfl, rfl, rfl, rfl, by decide⟩
theorem witness_StoredWordIsFetchedNext : -- P5, step 4, and the top of memory
    let s := { withRegs [(0, 0x12), (1, 0x0A)] with i := 0x202 }.withFetchWord 16 0xF155
    let q := { withRegs [(0, 0x12), (1, 0x0A)] with i := 0x000, pc := 0xFFE }.withFetchWord 16 0xF155
    decodeWord s.fetch = .ldMemVx 1 ∧ 1 ≤ (1 : Reg).val ∧
    s.i.toNat % 4096 = (s.pc.toNat + 2) % 65536 % 4096 ∧
    decodeWord q.fetch = .ldMemVx 1 ∧ q.i.toNat % 4096 = (q.pc.toNat + 2) % 65536 % 4096 := by decide
theorem witness_DelayTimerCountsSteps :
    let s := { State.reset with dt := 5 }
    ∀ m u, m < 1 → Sys2Proof.core.run m s = .next u → ∀ x, decodeWord (State.fetch u) ≠ .ldDTVx x := by
  intro s m u hm hu x
  have : m = 0 := by omega
  subst this; cases hu; decide +revert
theorem witness_LoadCopiesProgram :
    ([] : List Byte).length ≤ 3584 ∧ (List.replicate 3584 (1 : Byte)).length ≤ 3584 := by
  simp
theorem witness_FailedLoadChangesNothing : (List.replicate 3585 (1 : Byte)).length > 3584 := by simp
theorem witness_NothingBeforeInitialize : HostCall.step ≠ .init ∧ HostCall.load .unavailable ≠ .init := by decide
theorem witness_BoundaryCalls : 15 < 16 ∧ 16 ≤ 16 := by decide

end Sys2Proof.Tests
end

/-! ## Proofs of the family of the state (10_state.md) -/

namespace Sys2Proof.Machine

/-! ### Canonical memories (R20): the list of cells is determined by the bytes -/

theorem cellAt_of_mem {cells : List Host.Cell} (hr : rising cells) {a : Nat} {b : Byte} (h : (a, b) ∈ cells) :
    cellAt cells a = some b := by
  induction cells with
  | nil => cases h
  | cons c rest ih =>
    obtain ⟨k, d⟩ := c
    obtain ⟨hk, hr'⟩ := rising_cons.1 hr
    rcases List.mem_cons.1 h with heq | h
    · cases heq; simp [cellAt]
    · have hne : k ≠ a := Nat.ne_of_lt (hk _ h)
      simp [cellAt, hne, ih hr' h]

/-- A canonical memory lists exactly the bytes below 4096 that differ from the reset contents. -/
theorem mem_cells_iff {m : Memory} (hm : m.wf = true) (a : Nat) (b : Byte) :
    (a, b) ∈ m.cells ↔ a < 4096 ∧ m.get a = b ∧ b ≠ m.unlisted a := by
  obtain ⟨hr, hc⟩ := (wf_iff m).1 hm
  constructor
  · intro h
    obtain ⟨ha, hb⟩ := hc _ h
    exact ⟨ha, by simp [Memory.get, cellAt_of_mem hr h], hb⟩
  · rintro ⟨-, hget, hb⟩
    cases hcell : cellAt m.cells a with
    | none => exact absurd hget.symm (by simpa [Memory.get, hcell] using hb)
    | some d =>
      have hd : d = b := by simpa [Memory.get, hcell] using hget
      exact hd ▸ mem_of_cellAt hcell

/-- Cells at rising addresses are determined by their members. -/
theorem rising_ext {l l' : List Host.Cell} (h : rising l) (h' : rising l') (hmem : ∀ c, c ∈ l ↔ c ∈ l') : l = l' := by
  have hperm : l.Perm l' := (List.perm_ext_iff_of_nodup (h.nodup.of_map _) (h'.nodup.of_map _)).2 hmem
  exact hperm.eq_of_pairwise (le := fun c d => c.1 < d.1) (fun _ _ _ _ hlt hgt => absurd hlt (Nat.lt_asymm hgt))
    (List.pairwise_map.1 h) (List.pairwise_map.1 h')

/-- Settles O48: both lists of cells rise and have the same members, those that `mem_cells_iff` names. -/
theorem memoryIsCanonical : Obligations.MemoryIsCanonical := by
  unfold Obligations.MemoryIsCanonical
  intro m n hm hn hg hget
  have hunlisted : ∀ a, m.unlisted a = n.unlisted a := fun a => by simp only [Memory.unlisted, hg]
  have hcells : m.cells = n.cells := by
    refine rising_ext ((wf_iff m).1 hm).1 ((wf_iff n).1 hn).1 fun ⟨a, b⟩ => ?_
    rw [mem_cells_iff hm, mem_cells_iff hn, hunlisted]
    exact and_congr_right fun ha => by rw [hget a ha]
  cases m; cases n
  simp only at hg hcells
  rw [hg, hcells]

/-! ### The reset state (R33) -/

/-- After reset memory holds the glyph table at 0x000 to 0x04F. -/
theorem resetWith_memRead_glyph (g : Vector Byte 80) (n : Nat) {a : Nat} (h : a < 80) :
    (State.resetWith g n).memRead a = g[a] := by
  have hmod : a % 4096 = a := Nat.mod_eq_of_lt (by omega)
  simp [State.memRead, State.resetWith, Memory.get, cellAt, Memory.unlisted, hmod, h]

/-- After reset memory is 0 above the glyph table. -/
theorem resetWith_memRead_zero (g : Vector Byte 80) (n : Nat) {a : Nat} (h : 80 ≤ a) (ha : a < 4096) :
    (State.resetWith g n).memRead a = 0 := by
  have hmod : a % 4096 = a := Nat.mod_eq_of_lt ha
  simp [State.memRead, State.resetWith, Memory.get, cellAt, Memory.unlisted, hmod, Nat.not_lt.2 h]

theorem resetWith_inv (g : Vector Byte 80) (n : Nat) : Inv (State.resetWith g n) :=
  ⟨resetWith_mem_wf g n, fun _ => rfl, fun _ => rfl⟩

/-- Settles O41, as an instance of `resetWith_inv`. -/
theorem resetMeetsInvariant : Obligations.ResetMeetsInvariant := resetWith_inv defaultGlyphs 0

/-- Settles O44: each vector of the reset state is a `Vector.replicate`, and memory lists no cell. -/
theorem resetValues : Obligations.ResetValues := by
  unfold Obligations.ResetValues
  refine ⟨fun r => ?_, rfl, rfl, rfl, fun k h => ?_, rfl, rfl, fun j h => ?_, rfl, fun k h => ?_, rfl, rfl,
    fun a h => resetWith_memRead_glyph _ _ h, fun a h ha => resetWith_memRead_zero _ _ h ha⟩
  · exact Vector.getElem_replicate r.isLt
  · exact Vector.getElem_replicate h
  · exact Vector.getElem_replicate h
  · exact Vector.getElem_replicate h

/-! ### Every instruction and every step answers a next state -/

theorem exec_completes (i : Instr) (s : State) : ∃ t, exec i s = .next t := by
  cases i with
  | ret =>
    by_cases used : 0 < s.sp.val
    · exact ⟨_, execRet_of_used used⟩
    · exact ⟨_, execRet_of_empty used⟩
  | call nnn =>
    by_cases free : s.sp.val < 16
    · exact ⟨_, execCall_of_free nnn free⟩
    · exact ⟨_, execCall_of_full nnn free⟩
  | ldVxK x =>
    cases hkey : s.heldKey with
    | none => exact ⟨_, execLdVxK_of_none x hkey⟩
    | some k => exact ⟨_, execLdVxK_of_some x hkey⟩
  | _ => exact ⟨_, rfl⟩

/-- A step runs its instruction to a state `u` and finishes `u`. -/
theorem step_completes (s : State) :
    ∃ u, exec (decodeWord s.fetch) s.clearResult = .next u ∧ step s = .next (u.finish (decodeWord s.fetch)) := by
  obtain ⟨u, hu⟩ := exec_completes (decodeWord s.fetch) s.clearResult
  exact ⟨u, hu, step_of_exec hu⟩

/-! ### Frames through the named updates -/

/-- The pieces of the state other than registers that the meaning of an instruction may write. -/
@[simp] def writtenParts : Instr → List Part
  | .cls | .drw _ _ _ => [.pc, .framebuffer, .dirty]
  | .ret | .call _ => [.pc, .stack, .result]
  | .ldI _ | .addIVx _ | .ldFVx _ | .ldVxMem _ => [.pc, .index]
  | .ldBVx _ => [.pc, .memory]
  | .ldMemVx _ => [.pc, .index, .memory]
  | .rnd _ _ => [.pc, .draws]
  | .ldDTVx _ => [.pc, .delayTimer]
  | .ldSTVx _ => [.pc, .soundTimer]
  | .unknown _ => [.pc, .result]
  | .jp _ | .jpV0 _ | .seImm _ _ | .sneImm _ _ | .seReg _ _ | .sneReg _ _ | .skp _ | .sknp _ | .ldImm _ _
  | .addImm _ _ | .ldReg _ _ | .orReg _ _ | .andReg _ _ | .xorReg _ _ | .addReg _ _ | .subReg _ _ | .subnReg _ _
  | .shr _ _ | .shl _ _ | .ldVxDT _ | .ldVxK _ => [.pc]

section Frames

/-! An update keeps a frame that lists what it writes. That the lists of an instruction name it, `simp` computes. -/

variable {R : List Reg} {P : List Part} {s t u : State}

theorem frame.refl : frame R P s s :=
  ⟨fun _ _ => rfl, fun p _ => by cases p <;> simp [Part.same]⟩

theorem frame.trans (h : frame R P s t) (h' : frame R P t u) : frame R P s u := by
  obtain ⟨hreg, hpart⟩ := h
  obtain ⟨hreg', hpart'⟩ := h'
  refine ⟨fun r hr => (hreg' r hr).trans (hreg r hr), fun p hp => ?_⟩
  have h1 := hpart p hp
  have h2 := hpart' p hp
  cases p <;> simp_all [Part.same]

theorem frame.mono {R' : List Reg} {P' : List Part} (h : frame R P s t) (hR : R ⊆ R') (hP : P ⊆ P') :
    frame R' P' s t :=
  ⟨fun r hr => h.1 r fun hr' => hr (hR hr'), fun p hp => h.2 p fun hp' => hp (hP hp')⟩

/-- A piece that reads otherwise is listed. -/
theorem frame.mem_of_changed (h : frame R P s t) {p : Part} (hp : ¬ p.same s t) : p ∈ P :=
  not_imp_comm.1 (h.2 p) hp

theorem frame.setReg {x : Reg} {b : Byte} (h : frame R P s t) (hx : x ∈ R := by simp [destinations]) :
    frame R P s (t.setReg x b) := by
  refine h.trans ⟨fun r hr => ?_, fun p _ => by cases p <;> simp [Part.same]⟩
  have hne : x ≠ r := fun e => hr (e ▸ hx)
  simp [hne]

theorem frame.setFlagThenReg {x : Reg} {f b : Byte} (h : frame R P s t) (hf : 15 ∈ R := by simp [destinations])
    (hx : x ∈ R := by simp [destinations]) :
    frame R P s (t.setFlagThenReg x f b) :=
  (h.setReg hf).setReg hx

theorem frame.loadRegs {base count : Nat} (h : frame R P s t) (hc : count ≤ 16)
    (hR : ∀ r : Reg, r.val < count → r ∈ R) : frame R P s (t.loadRegs base count) := by
  refine h.trans ⟨fun r hr => ?_, fun p _ => by cases p <;> simp [Part.same]⟩
  rw [loadRegs_reg t base hc, if_neg fun hlt => hr (hR r hlt)]

theorem frame.advance (h : frame R P s t) (hp : .pc ∈ P := by simp) : frame R P s t.advance :=
  h.trans ⟨fun _ _ => rfl, fun p hn => by cases p <;> simp_all [Part.same]⟩

theorem frame.jumpTo {w : Word} (h : frame R P s t) (hp : .pc ∈ P := by simp) : frame R P s (t.jumpTo w) :=
  h.trans ⟨fun _ _ => rfl, fun p hn => by cases p <;> simp_all [Part.same]⟩

theorem frame.skipIf {c : Bool} (h : frame R P s t) (hp : .pc ∈ P := by simp) : frame R P s (t.skipIf c) :=
  h.trans ⟨fun _ _ => rfl, fun p hn => by cases p <;> simp_all [Part.same]⟩

theorem frame.setIndex {w : Word} (h : frame R P s t) (hp : .index ∈ P := by simp) : frame R P s (t.setIndex w) :=
  h.trans ⟨fun _ _ => rfl, fun p hn => by cases p <;> simp_all [Part.same]⟩

theorem frame.setDelayTimer {b : Byte} (h : frame R P s t) (hp : .delayTimer ∈ P := by simp) :
    frame R P s (t.setDelayTimer b) :=
  h.trans ⟨fun _ _ => rfl, fun p hn => by cases p <;> simp_all [Part.same]⟩

theorem frame.setSoundTimer {b : Byte} (h : frame R P s t) (hp : .soundTimer ∈ P := by simp) :
    frame R P s (t.setSoundTimer b) :=
  h.trans ⟨fun _ _ => rfl, fun p hn => by cases p <;> simp_all [Part.same]⟩

theorem frame.push {w : Word} {free : t.sp.val < 16} (h : frame R P s t) (hp : .stack ∈ P := by simp) :
    frame R P s (t.push w free) :=
  h.trans ⟨fun _ _ => rfl, fun p hn => by cases p <;> simp_all [Part.same]⟩

theorem frame.pop (h : frame R P s t) (hp : .stack ∈ P := by simp) : frame R P s t.pop :=
  h.trans ⟨fun _ _ => rfl, fun p hn => by cases p <;> simp_all [Part.same]⟩

theorem frame.countDraw (h : frame R P s t) (hp : .draws ∈ P := by simp) : frame R P s t.countDraw :=
  h.trans ⟨fun _ _ => rfl, fun p hn => by cases p <;> simp_all [Part.same]⟩

theorem frame.raiseDiagnostic {d : Diagnostic} (h : frame R P s t) (hp : .pc ∈ P := by simp)
    (hr : .result ∈ P := by simp) : frame R P s (t.raiseDiagnostic d) :=
  h.trans ⟨fun _ _ => rfl, fun p hn => by cases p <;> simp_all [Part.same]⟩

theorem frame.clearResult (h : frame R P s t) (hp : .result ∈ P := by simp) : frame R P s t.clearResult :=
  h.trans ⟨fun _ _ => rfl, fun p hn => by cases p <;> simp_all [Part.same]⟩

/-- The glyph table stays, for the cells alone are written. -/
theorem frame.storeBytes {base : Nat} {bs : List Byte} (h : frame R P s t) (hp : .memory ∈ P := by simp) :
    frame R P s (t.storeBytes base bs) :=
  h.trans ⟨fun _ _ => by simp, fun p hn => by cases p <;> simp_all [Part.same]⟩

theorem frame.display {fb : Vector Bool 2048} {d : Bool} (h : frame R P s t) (hf : .framebuffer ∈ P := by simp)
    (hd : .dirty ∈ P := by simp) : frame R P s { t with fb := fb, dirty := d } :=
  h.trans ⟨fun _ _ => rfl, fun p hn => by cases p <;> simp_all [Part.same, State.memRead]⟩

theorem frame.finish {i : Instr} (h : frame R P s t) (hP : [.mode, .beep, .delayTimer, .soundTimer] ⊆ P) :
    frame R P s (t.finish i) :=
  h.trans ⟨fun _ _ => rfl, fun p hn => by cases p <;> simp_all [Part.same]⟩

end Frames

/-! ### What an instruction and a step write -/

/-- The meaning of an instruction writes the registers of `destinations` and the pieces of `writtenParts` alone. -/
theorem exec_frame {i : Instr} {s t : State} (h : exec i s = .next t) :
    frame (destinations i) (writtenParts i) s t := by
  have start : frame (destinations i) (writtenParts i) s s := frame.refl
  cases i with
  | cls => cases h; exact start.display.advance
  | drw x y n => cases h; exact start.display.setReg.advance
  | ret =>
    by_cases used : 0 < s.sp.val
    · cases (execRet_of_used used).symm.trans h
      exact start.pop.jumpTo
    · cases (execRet_of_empty used).symm.trans h
      exact start.raiseDiagnostic
  | call nnn =>
    by_cases free : s.sp.val < 16
    · cases (execCall_of_free nnn free).symm.trans h
      exact start.push.jumpTo
    · cases (execCall_of_full nnn free).symm.trans h
      exact start.raiseDiagnostic
  | jp | jpV0 => cases h; exact start.jumpTo
  | seImm | sneImm | seReg | sneReg | skp | sknp => cases h; exact start.skipIf
  | ldImm | addImm | ldReg | orReg | andReg | xorReg | ldVxDT => cases h; exact start.setReg.advance
  | addReg | subReg | subnReg | shr | shl => cases h; exact start.setFlagThenReg.advance
  | rnd x nn => cases h; exact start.setReg.countDraw.advance
  | ldVxK x =>
    cases hkey : s.heldKey with
    | none => cases (execLdVxK_of_none x hkey).symm.trans h; exact start
    | some k =>
      cases (execLdVxK_of_some x hkey).symm.trans h
      exact start.setReg.advance
  | ldDTVx => cases h; exact start.setDelayTimer.advance
  | ldSTVx => cases h; exact start.setSoundTimer.advance
  | ldI | ldFVx => cases h; exact start.setIndex.advance
  | addIVx => cases h; exact start.setReg.setIndex.advance
  | ldBVx => cases h; exact start.storeBytes.advance
  | ldMemVx => cases h; exact start.storeBytes.setIndex.advance
  | ldVxMem x =>
    cases h
    have hR : ∀ r : Reg, r.val < x.val + 1 → r ∈ destinations (.ldVxMem x) := fun r hr => by
      simpa [destinations] using Nat.lt_succ_iff.1 hr
    exact (start.loadRegs (by omega) hR).setIndex.advance
  | unknown => cases h; exact start.raiseDiagnostic

/-- The pieces that a step may write: those of its instruction, and the ones every step writes (R100). -/
@[simp] def stepParts (i : Instr) : List Part := [.mode, .beep, .delayTimer, .soundTimer, .result] ++ writtenParts i

theorem step_frame {s t : State} (h : step s = .next t) :
    frame (destinations (decodeWord s.fetch)) (stepParts (decodeWord s.fetch)) s t := by
  obtain ⟨u, hu, rfl⟩ := step_inv h
  have hclear : frame (destinations (decodeWord s.fetch)) (stepParts (decodeWord s.fetch)) s s.clearResult :=
    frame.refl.clearResult (by simp)
  have hexec := (exec_frame hu).mono (P' := stepParts (decodeWord s.fetch)) (fun _ hr => hr)
    (List.subset_append_right _ _)
  exact (hclear.trans hexec).finish (by simp)

/-! The instructions that write a piece, read off `writtenParts`. -/

theorem writes_index {i : Instr} (h : .index ∈ stepParts i) :
    (∃ a, i = .ldI a) ∨ ∃ x, i = .addIVx x ∨ i = .ldFVx x ∨ i = .ldMemVx x ∨ i = .ldVxMem x := by
  cases i <;> simp at h ⊢

theorem writes_stack {i : Instr} (h : .stack ∈ stepParts i) : i = .ret ∨ ∃ a, i = .call a := by
  cases i <;> simp at h ⊢

theorem writes_display {i : Instr} (h : .framebuffer ∈ stepParts i ∨ .dirty ∈ stepParts i) :
    i = .cls ∨ ∃ x y n, i = .drw x y n := by
  cases i <;> simp at h ⊢

theorem writes_memory {i : Instr} (h : .memory ∈ stepParts i) : ∃ x, i = .ldBVx x ∨ i = .ldMemVx x := by
  cases i <;> simp at h ⊢

theorem writes_draws {i : Instr} (h : .draws ∈ stepParts i) : ∃ x nn, i = .rnd x nn := by
  cases i <;> simp at h ⊢

theorem keypad_not_mem_stepParts (i : Instr) : .keypad ∉ stepParts i := by
  cases i <;> simp

theorem glyphs_not_mem_stepParts (i : Instr) : .glyphs ∉ stepParts i := by
  cases i <;> simp

/-- No instruction clears `DIRTY` (R28). -/
theorem exec_keeps_dirty {i : Instr} {s t : State} (h : exec i s = .next t) (hd : s.dirty = true) :
    t.dirty = true := by
  by_cases hi : Part.dirty ∈ writtenParts i
  · obtain rfl | ⟨x, y, n, rfl⟩ := writes_display (.inr (List.mem_append_right _ hi))
    · cases h; rfl
    · cases h; rfl
  · exact ((exec_frame h).2 .dirty hi).trans hd

theorem step_keeps_dirty {s t : State} (h : step s = .next t) (hd : s.dirty = true) : t.dirty = true := by
  obtain ⟨u, hu, rfl⟩ := step_inv h
  have hu_dirty : u.dirty = true := exec_keeps_dirty hu hd
  exact hu_dirty

/-- Settles O45: a piece that changed is in the frame of the step, so the instruction is one that lists it. -/
theorem onlyNamedInstructionsWrite : Obligations.OnlyNamedInstructionsWrite := by
  unfold Obligations.OnlyNamedInstructionsWrite
  rintro s i rfl
  obtain ⟨u, -, hstep⟩ := step_completes s
  have hf := step_frame hstep
  refine ⟨_, hstep, hf.1, fun h => ?_, fun h => ?_, fun h => ?_, step_keeps_dirty hstep,
    hf.2 .keypad (keypad_not_mem_stepParts _), hf.2 .glyphs (glyphs_not_mem_stepParts _), fun h => ?_, fun h => ?_⟩
  · exact writes_index (hf.mem_of_changed h)
  · exact writes_stack (hf.mem_of_changed fun ⟨hsp, hstack⟩ => h.elim (· hsp) (· hstack))
  · exact writes_display (h.imp (hf.mem_of_changed ·) (hf.mem_of_changed ·))
  · obtain ⟨a, ha⟩ := h
    exact writes_memory (hf.mem_of_changed fun hsame => ha (hsame a))
  · exact writes_draws (hf.mem_of_changed h)

/-! ### Another stack under the same top (R25)

`withStack` replaces the entries of the call stack alone; only CALL and RET do not commute with it. -/

def State.withStack (s : State) (k : Vector Word 16) : State := { s with stack := k }

@[simp] theorem withStack_memRead (s : State) (k : Vector Word 16) (ea : Nat) :
    (s.withStack k).memRead ea = s.memRead ea := rfl

theorem storeBytes_withStack (s : State) (k : Vector Word 16) (base : Nat) (bs : List Byte) :
    (s.withStack k).storeBytes base bs = (s.storeBytes base bs).withStack k := by
  induction bs generalizing s base with
  | nil => rfl
  | cons b rest ih => exact ih (s.memWrite base b) (base + 1)

theorem loadRegs_withStack (s : State) (k : Vector Word 16) (base count : Nat) :
    (s.withStack k).loadRegs base count = (s.loadRegs base count).withStack k := by
  induction count with
  | zero => rfl
  | succ n ih => simp only [State.loadRegs, ih, withStack_memRead]; rfl

theorem drawRows_withStack (s : State) (k : Vector Word 16) (x0 y0 count : Nat) (c : Canvas) :
    (s.withStack k).drawRows x0 y0 count c = s.drawRows x0 y0 count c := by
  induction count with
  | zero => rfl
  | succ n ih => simp only [State.drawRows, ih, withStack_memRead]; rfl

theorem heldKey_withStack (s : State) (k : Vector Word 16) : (s.withStack k).heldKey = s.heldKey := by
  have hscan : ∀ count, (s.withStack k).scanKeys count = s.scanKeys count := fun count => by
    induction count with
    | zero => rfl
    | succ n ih => simp only [State.scanKeys, ih]; rfl
  exact hscan 16

theorem finish_withStack (s : State) (k : Vector Word 16) (i : Instr) :
    (s.withStack k).finish i = (s.finish i).withStack k := by
  simp only [State.finish, State.nextMode, heldKey_withStack]; rfl

/-- An instruction that does not write the stack does not read it either. -/
theorem exec_withStack {i : Instr} (hi : .stack ∉ writtenParts i) {s u : State} (k : Vector Word 16)
    (h : exec i s = .next u) : exec i (s.withStack k) = .next (u.withStack k) := by
  cases i with
  | ret | call => simp at hi
  | ldVxK x =>
    cases hkey : s.heldKey with
    | none =>
      cases (execLdVxK_of_none x hkey).symm.trans h
      exact execLdVxK_of_none x ((heldKey_withStack _ k).trans hkey)
    | some j =>
      cases (execLdVxK_of_some x hkey).symm.trans h
      exact execLdVxK_of_some x ((heldKey_withStack _ k).trans hkey)
  | ldBVx | ldMemVx =>
    cases h
    simp only [exec, execLdBVx, execLdMemVx, storeBytes_withStack]; rfl
  | ldVxMem =>
    cases h
    simp only [exec, execLdVxMem, loadRegs_withStack]; rfl
  | drw =>
    cases h
    simp only [exec, execDrw, drawRows_withStack]; rfl
  | _ => cases h; rfl

/-- States that agree below the top differ by the entries of the stack alone. -/
theorem sameBelowTop.exists_withStack {s t : State} (h : sameBelowTop s t) :
    ∃ k : Vector Word 16, (∀ j (_ : j < 16), j < s.sp.val → k[j] = s.stack[j]) ∧ t = s.withStack k :=
  ⟨t.stack, h.2, h.1⟩

/-- CALL writes the entry that it puts below the top, and reads none. -/
theorem execCall_sameBelowTop {s t : State} (h : sameBelowTop s t) (nnn : Addr) :
    ∃ u w, execCall nnn s = .next u ∧ execCall nnn t = .next w ∧ sameBelowTop u w := by
  obtain ⟨k, hk, rfl⟩ := h.exists_withStack
  by_cases free : s.sp.val < 16
  · refine ⟨_, _, execCall_of_free nnn free, execCall_of_free (s := s.withStack k) nnn free, rfl, fun j hj hlt => ?_⟩
    have hlt' : j < s.sp.val + 1 := hlt
    show (k.set s.sp.val s.pc)[j] = (s.stack.set s.sp.val s.pc)[j]
    simp only [Vector.getElem_set]
    split
    · rfl
    · exact hk j hj (by omega)
  · exact ⟨_, _, execCall_of_full nnn free, execCall_of_full (s := s.withStack k) nnn free, rfl, hk⟩

/-- RET reads the top entry, which is below `SP`. -/
theorem execRet_sameBelowTop {s t : State} (h : sameBelowTop s t) :
    ∃ u w, execRet s = .next u ∧ execRet t = .next w ∧ sameBelowTop u w := by
  obtain ⟨k, hk, rfl⟩ := h.exists_withStack
  by_cases used : 0 < s.sp.val
  · have htop : (s.withStack k).top used = s.top used := hk (s.sp.val - 1) (by omega) (by omega)
    refine ⟨_, _, execRet_of_used used, execRet_of_used (s := s.withStack k) used, ?_, fun j hj hlt => ?_⟩
    · rw [htop]; rfl
    · have hlt' : j < s.sp.val - 1 := hlt
      exact hk j hj (by omega)
  · exact ⟨_, _, execRet_of_empty used, execRet_of_empty (s := s.withStack k) used, rfl, hk⟩

theorem exec_sameBelowTop {s t : State} (h : sameBelowTop s t) (i : Instr) :
    ∃ u w, exec i s = .next u ∧ exec i t = .next w ∧ sameBelowTop u w := by
  by_cases hi : .stack ∈ writtenParts i
  · obtain rfl | ⟨nnn, rfl⟩ := writes_stack (List.mem_append_right _ hi)
    · exact execRet_sameBelowTop h
    · exact execCall_sameBelowTop h nnn
  · obtain ⟨u, hu⟩ := exec_completes i s
    obtain ⟨hsp, hstack⟩ := (exec_frame hu).2 .stack hi
    refine ⟨u, u.withStack t.stack, hu, ?_, rfl, fun j hj hlt => ?_⟩
    · rw [h.1]; exact exec_withStack hi t.stack hu
    · rw [hstack]; exact h.2 j hj (hsp ▸ hlt)

theorem sameBelowTop.clearResult {s t : State} (h : sameBelowTop s t) : sameBelowTop s.clearResult t.clearResult := by
  obtain ⟨ht, hk⟩ := h
  exact ⟨congrArg State.clearResult ht, hk⟩

theorem sameBelowTop.finish {s t : State} (h : sameBelowTop s t) (i : Instr) :
    sameBelowTop (s.finish i) (t.finish i) := by
  obtain ⟨ht, hk⟩ := h
  exact ⟨(congrArg (State.finish · i) ht).trans (finish_withStack s t.stack i), hk⟩

theorem sameBelowTop.fetch_eq {s t : State} (h : sameBelowTop s t) : t.fetch = s.fetch := by
  obtain ⟨k, -, rfl⟩ := h.exists_withStack
  rfl

/-- Settles O46: both states run the same instruction, which keeps the agreement, and so does what a step does around
it. -/
theorem entriesAboveTopUnobservable : Obligations.EntriesAboveTopUnobservable := by
  unfold Obligations.EntriesAboveTopUnobservable
  intro s t h
  obtain ⟨u, w, hu, hw, huw⟩ := exec_sameBelowTop h.clearResult (decodeWord s.fetch)
  exact ⟨_, _, step_of_exec hu, step_of_decode (congrArg decodeWord h.fetch_eq) hw, huw.finish _⟩

end Sys2Proof.Machine

/-! ## Proofs of the family of the memory (20_memory.md) -/

namespace Sys2Proof.Machine

/-- The word fetched, as a number: the first byte is the more significant (R51, R101). -/
theorem fetch_toNat (s : State) :
    s.fetch.toNat = (s.memRead s.pc.toNat).toNat * 256 + (s.memRead (s.pc.toNat + 1)).toNat :=
  wordOfBytes_toNat _ _

/-- Settles O8, by `fetch_toNat`: a byte is read at its address modulo 4096. -/
theorem fetchIsBigEndianAndWraps : Obligations.FetchIsBigEndianAndWraps := by
  unfold Obligations.FetchIsBigEndianAndWraps
  intro s
  refine ⟨fetch_toNat s, fun hpc => ?_⟩
  have hword := fetch_toNat s
  rw [hpc] at hword
  exact hword

/-- An address that names the byte of `V[r]`, one of the registers dumped from `I` on, reads as `V[r]` (R174). -/
theorem memRead_storeBytes_lowRegs (s : State) {x r : Reg} (hr : r.val ≤ x.val) {ea : Nat}
    (hea : (s.i.toNat + r.val) % 4096 = ea % 4096) :
    (s.storeBytes (s.dataAddress 0) (s.lowRegs x)).memRead ea = s.reg r := by
  have hlen : (s.lowRegs x).length = x.val + 1 := lowRegs_length s x
  have hk : r.val < (s.lowRegs x).length := by omega
  rw [memRead_storeBytes_in s (s.dataAddress 0) _ (by omega) hk hea, lowRegs_getElem s x hk r.isLt]

/-- Settles O53: the step stores `V[0]` and `V[1]` at the two addresses, modulo 4096, of the `PC` that it leaves. -/
theorem storedWordIsFetchedNext : Obligations.StoredWordIsFetchedNext := by
  unfold Obligations.StoredWordIsFetchedNext
  intro s x hdec hx hi
  refine ⟨_, step_of_decode hdec rfl, ?_⟩
  have hnext : (s.i.toNat + 1) % 4096 = ((s.pc.toNat + 2) % 65536 + 1) % 4096 := by omega
  have hv0 := memRead_storeBytes_lowRegs s.clearResult (r := 0) (Nat.zero_le x.val) hi
  have hv1 := memRead_storeBytes_lowRegs s.clearResult (r := 1) hx hnext
  simp [fetch_toNat, hv0, hv1]

end Sys2Proof.Machine

/-! ## Proofs of the family of the encoding (30_encoding.md) -/

namespace Sys2Proof

open Machine Laws

/-! ### The decode table, one rule per family (R73) -/

/-- Every other word of family 0 is UNKNOWN. -/
theorem decodeWord_family0 {nnn : Addr} (hcls : nnn ≠ 0x0E0#12) (hret : nnn ≠ 0x0EE#12) :
    decodeWord (wordNNN 0x0#4 nnn) = .unknown (wordNNN 0x0#4 nnn) := by
  have hw : ∀ a : Addr, nnn ≠ a → wordNNN 0x0#4 nnn ≠ wordNNN 0x0#4 a := fun a ha h =>
    ha (by simpa using congrArg nnnField h)
  have hcls' : wordNNN 0x0#4 nnn ≠ 0x00E0#16 := hw _ hcls
  have hret' : wordNNN 0x0#4 nnn ≠ 0x00EE#16 := hw _ hret
  simp [decodeWord, hcls', hret']

@[simp] theorem decodeWord_family1 (nnn : Addr) : decodeWord (wordNNN 0x1#4 nnn) = .jp nnn := by simp [decodeWord]

@[simp] theorem decodeWord_family2 (nnn : Addr) : decodeWord (wordNNN 0x2#4 nnn) = .call nnn := by simp [decodeWord]

@[simp] theorem decodeWord_family3 (x : Reg) (nn : Byte) : decodeWord (wordXNN 0x3#4 x nn) = .seImm x nn := by
  simp [decodeWord]

@[simp] theorem decodeWord_family4 (x : Reg) (nn : Byte) : decodeWord (wordXNN 0x4#4 x nn) = .sneImm x nn := by
  simp [decodeWord]

@[simp] theorem decodeWord_family5 (x y n : Fin 16) : decodeWord (wordXYN 0x5#4 x y n) =
    (if n.val = 0 then .seReg x y else .unknown (wordXYN 0x5#4 x y n)) := by
  simp [decodeWord]

@[simp] theorem decodeWord_family6 (x : Reg) (nn : Byte) : decodeWord (wordXNN 0x6#4 x nn) = .ldImm x nn := by
  simp [decodeWord]

@[simp] theorem decodeWord_family7 (x : Reg) (nn : Byte) : decodeWord (wordXNN 0x7#4 x nn) = .addImm x nn := by
  simp [decodeWord]

@[simp] theorem decodeWord_family8 (x y n : Fin 16) : decodeWord (wordXYN 0x8#4 x y n) =
    (if n.val = 0 then .ldReg x y else if n.val = 1 then .orReg x y else if n.val = 2 then .andReg x y
     else if n.val = 3 then .xorReg x y else if n.val = 4 then .addReg x y else if n.val = 5 then .subReg x y
     else if n.val = 6 then .shr x y else if n.val = 7 then .subnReg x y else if n.val = 14 then .shl x y
     else .unknown (wordXYN 0x8#4 x y n)) := by
  have hd : decodeWord (wordXYN 0x8#4 x y n) = decodeFamily8 (wordXYN 0x8#4 x y n) := by simp [decodeWord]
  simp only [hd, decodeFamily8, nField_wordXYN, xField_wordXYN, yField_wordXYN]
  split
  case h_10 => simp_all only [imp_false, reduceIte]
  all_goals simp [*]

@[simp] theorem decodeWord_family9 (x y n : Fin 16) : decodeWord (wordXYN 0x9#4 x y n) =
    (if n.val = 0 then .sneReg x y else .unknown (wordXYN 0x9#4 x y n)) := by
  simp [decodeWord]

@[simp] theorem decodeWord_familyA (nnn : Addr) : decodeWord (wordNNN 0xA#4 nnn) = .ldI nnn := by simp [decodeWord]

@[simp] theorem decodeWord_familyB (nnn : Addr) : decodeWord (wordNNN 0xB#4 nnn) = .jpV0 nnn := by simp [decodeWord]

@[simp] theorem decodeWord_familyC (x : Reg) (nn : Byte) : decodeWord (wordXNN 0xC#4 x nn) = .rnd x nn := by
  simp [decodeWord]

@[simp] theorem decodeWord_familyD (x y n : Fin 16) : decodeWord (wordXYN 0xD#4 x y n) = .drw x y n := by
  simp [decodeWord]

@[simp] theorem decodeWord_familyE (x : Reg) (nn : Byte) : decodeWord (wordXNN 0xE#4 x nn) =
    (if nn.toNat = 0x9E then .skp x else if nn.toNat = 0xA1 then .sknp x else .unknown (wordXNN 0xE#4 x nn)) := by
  have hd : decodeWord (wordXNN 0xE#4 x nn) = decodeFamilyE (wordXNN 0xE#4 x nn) := by simp [decodeWord]
  simp only [hd, decodeFamilyE, nnField_wordXNN, xField_wordXNN]
  split
  case h_3 => simp_all only [imp_false, reduceIte]
  all_goals simp [*]

@[simp] theorem decodeWord_familyF (x : Reg) (nn : Byte) : decodeWord (wordXNN 0xF#4 x nn) =
    (if nn.toNat = 0x07 then .ldVxDT x else if nn.toNat = 0x0A then .ldVxK x
     else if nn.toNat = 0x15 then .ldDTVx x else if nn.toNat = 0x18 then .ldSTVx x
     else if nn.toNat = 0x1E then .addIVx x else if nn.toNat = 0x29 then .ldFVx x
     else if nn.toNat = 0x33 then .ldBVx x else if nn.toNat = 0x55 then .ldMemVx x
     else if nn.toNat = 0x65 then .ldVxMem x else .unknown (wordXNN 0xF#4 x nn)) := by
  have hd : decodeWord (wordXNN 0xF#4 x nn) = decodeFamilyF (wordXNN 0xF#4 x nn) := by simp [decodeWord]
  simp only [hd, decodeFamilyF, nnField_wordXNN, xField_wordXNN]
  split
  case h_10 => simp_all only [imp_false, reduceIte]
  all_goals simp [*]

/-- Settles O3: each clause is the rule of its family. -/
theorem decodeTable : Obligations.DecodeTable := by
  unfold Obligations.DecodeTable
  intro x y n nn nnn
  exact ⟨rfl, rfl, decodeWord_family0, decodeWord_family1 nnn, decodeWord_family2 nnn, decodeWord_family3 x nn,
    decodeWord_family4 x nn, decodeWord_family5 x y n, decodeWord_family6 x nn, decodeWord_family7 x nn,
    decodeWord_family8 x y n, decodeWord_family9 x y n, decodeWord_familyA nnn, decodeWord_familyB nnn,
    decodeWord_familyC x nn, decodeWord_familyD x y n, decodeWord_familyE x nn, decodeWord_familyF x nn⟩

/-! ### Encoding undoes decoding (R73, R102) -/

theorem familyField_lt (w : Word) : familyField w < 16 := (w.extractLsb' 12 4).isLt

/-- The words that no row takes, by their fields (R74, R75). -/
theorem isUnknownWord_iff_fields (w : Word) : isUnknownWord w = true ↔
    (familyField w = 0x0 → nnnField w ≠ 0x0E0#12 ∧ nnnField w ≠ 0x0EE#12) ∧
    familyField w ∉ [0x1, 0x2, 0x3, 0x4] ∧
    (familyField w = 0x5 → nField w ≠ 0) ∧
    familyField w ∉ [0x6, 0x7] ∧
    (familyField w = 0x8 → (nField w).val ∉ [0x0, 0x1, 0x2, 0x3, 0x4, 0x5, 0x6, 0x7, 0xE]) ∧
    (familyField w = 0x9 → nField w ≠ 0) ∧
    familyField w ∉ [0xA, 0xB, 0xC, 0xD] ∧
    (familyField w = 0xE → (nnField w).toNat ∉ [0x9E, 0xA1]) ∧
    (familyField w = 0xF → (nnField w).toNat ∉ [0x07, 0x0A, 0x15, 0x18, 0x1E, 0x29, 0x33, 0x55, 0x65]) := by
  simp [isUnknownWord, opcodeRows, opcodeRowsLow, opcodeRowsMid, opcodeRowsHigh, takes_F000, takes_F00F, takes_F0FF,
    takes_FFFF, familyField_ofNat, nField_ofNat, nnField_ofNat, nnnField_ofNat, ← Fin.val_inj, ← BitVec.toNat_inj,
    -Fin.val_eq_zero_iff, imp_iff_not_or, or_and_left, and_assoc]

/-- The word of family 0 with a given address. -/
theorem eq_of_family0 {w : Word} {nnn : Addr} (hf : familyField w = 0) (hn : nnnField w = nnn) :
    w = wordNNN 0x0#4 nnn := by
  rw [← hn]; exact (wordNNN_fields (f := 0x0#4) hf).symm

/-- Family 8 decodes to a well-formed instruction whose word it is. -/
theorem decodeFamily8_wellFormed_encode {w : Word} (hf : familyField w = 0x8) :
    (decodeFamily8 w).wellFormed = true ∧ encode (decodeFamily8 w) = w := by
  unfold decodeFamily8
  split
  case h_10 => exact ⟨(isUnknownWord_iff_fields w).2 (by simp_all), rfl⟩
  all_goals exact ⟨rfl, wordXYN_fields hf ‹_›⟩

/-- Family E decodes to a well-formed instruction whose word it is. -/
theorem decodeFamilyE_wellFormed_encode {w : Word} (hf : familyField w = 0xE) :
    (decodeFamilyE w).wellFormed = true ∧ encode (decodeFamilyE w) = w := by
  unfold decodeFamilyE
  split
  case h_3 => exact ⟨(isUnknownWord_iff_fields w).2 (by simp_all), rfl⟩
  all_goals exact ⟨rfl, wordXNN_fields hf ‹_›⟩

/-- Family F decodes to a well-formed instruction whose word it is. -/
theorem decodeFamilyF_wellFormed_encode {w : Word} (hf : familyField w = 0xF) :
    (decodeFamilyF w).wellFormed = true ∧ encode (decodeFamilyF w) = w := by
  unfold decodeFamilyF
  split
  case h_10 => exact ⟨(isUnknownWord_iff_fields w).2 (by simp_all), rfl⟩
  all_goals exact ⟨rfl, wordXNN_fields hf ‹_›⟩

/-- Settles O2, family by family: a named row's pattern is made of the word's own fields, and a word left UNKNOWN has
fields that no row has. -/
theorem encodeUndoesDecode : Obligations.EncodeUndoesDecode := by
  unfold Obligations.EncodeUndoesDecode
  intro w
  unfold decodeWord
  split <;> rename_i hf
  case h_1 =>
    split_ifs with hcls hret
    · exact ⟨rfl, hcls.symm⟩
    · exact ⟨rfl, hret.symm⟩
    · have hcls' : nnnField w ≠ 0x0E0#12 := fun h => hcls (eq_of_family0 hf h)
      have hret' : nnnField w ≠ 0x0EE#12 := fun h => hret (eq_of_family0 hf h)
      exact ⟨(isUnknownWord_iff_fields w).2 (by simp [hf, hcls', hret']), rfl⟩
  case h_6 | h_10 =>
    split_ifs with hn
    · exact ⟨rfl, wordXYN_fields hf (congrArg Fin.val hn)⟩
    · exact ⟨(isUnknownWord_iff_fields w).2 (by simp [hf, hn]), rfl⟩
  case h_9 => exact decodeFamily8_wellFormed_encode hf
  case h_15 => exact decodeFamilyE_wellFormed_encode hf
  case h_16 => exact decodeFamilyF_wellFormed_encode hf
  case h_17 =>
    have hlt : familyField w < 16 := familyField_lt w
    simp only [imp_false] at *
    omega
  case h_2 | h_3 | h_11 | h_12 => exact ⟨rfl, wordNNN_fields hf⟩
  case h_14 => exact ⟨rfl, wordXYN_fields hf rfl⟩
  all_goals exact ⟨rfl, wordXNN_fields hf rfl⟩

/-! ### The rows of the table (R73, R74) -/

/-- The rows that take an instruction's word are those of its own mnemonic, for every instruction. -/
theorem takes_encode : ∀ i : Instr, RowEncoding.Statement i
  | .cls => RowEncoding.cls
  | .ret => RowEncoding.ret
  | .jp nnn => RowEncoding.jp nnn
  | .call nnn => RowEncoding.call nnn
  | .seImm x nn => RowEncoding.seImm x nn
  | .sneImm x nn => RowEncoding.sneImm x nn
  | .seReg x y => RowEncoding.seReg x y
  | .ldImm x nn => RowEncoding.ldImm x nn
  | .addImm x nn => RowEncoding.addImm x nn
  | .ldReg x y => RowEncoding.ldReg x y
  | .orReg x y => RowEncoding.orReg x y
  | .andReg x y => RowEncoding.andReg x y
  | .xorReg x y => RowEncoding.xorReg x y
  | .addReg x y => RowEncoding.addReg x y
  | .subReg x y => RowEncoding.subReg x y
  | .shr x y => RowEncoding.shr x y
  | .subnReg x y => RowEncoding.subnReg x y
  | .shl x y => RowEncoding.shl x y
  | .sneReg x y => RowEncoding.sneReg x y
  | .ldI nnn => RowEncoding.ldI nnn
  | .jpV0 nnn => RowEncoding.jpV0 nnn
  | .rnd x nn => RowEncoding.rnd x nn
  | .drw x y n => RowEncoding.drw x y n
  | .skp x => RowEncoding.skp x
  | .sknp x => RowEncoding.sknp x
  | .ldVxDT x => RowEncoding.ldVxDT x
  | .ldVxK x => RowEncoding.ldVxK x
  | .ldDTVx x => RowEncoding.ldDTVx x
  | .ldSTVx x => RowEncoding.ldSTVx x
  | .addIVx x => RowEncoding.addIVx x
  | .ldFVx x => RowEncoding.ldFVx x
  | .ldBVx x => RowEncoding.ldBVx x
  | .ldMemVx x => RowEncoding.ldMemVx x
  | .ldVxMem x => RowEncoding.ldVxMem x
  | .unknown w => RowEncoding.unknown w

/-- A row takes a word exactly when its mnemonic is that of the decoded instruction. -/
theorem takes_eq_mnemonicOf_decodeWord {r : OpcodeRow} (hr : r ∈ opcodeRows) (w : Word) :
    r.takes w = (r.mnemonic == mnemonicOf (decodeWord w)) := by
  obtain ⟨hwf, henc⟩ := encodeUndoesDecode w
  have h := takes_encode (decodeWord w) hwf r hr
  rwa [henc] at h

/-- An instruction is UNKNOWN exactly when no row has its mnemonic. -/
theorem isUnknown_iff_no_row (i : Instr) :
    isUnknown i = true ↔ ∀ r ∈ opcodeRows, (r.mnemonic == mnemonicOf i) = false := by
  cases i <;> simp only [isUnknown, mnemonicOf] <;> decide

/-- Settles O4: a row is told by its mnemonic, and the row that takes a word has the mnemonic of the decoded
instruction. -/
theorem opcodeRowsDisjointAndFollowed : Obligations.OpcodeRowsDisjointAndFollowed := by
  unfold Obligations.OpcodeRowsDisjointAndFollowed
  intro w
  constructor
  · intro r hr q hq hrw hqw
    have hdistinct : ∀ r ∈ opcodeRows, ∀ q ∈ opcodeRows, r.mnemonic = q.mnemonic → r = q := by decide
    rw [takes_eq_mnemonicOf_decodeWord hr, beq_iff_eq] at hrw
    rw [takes_eq_mnemonicOf_decodeWord hq, beq_iff_eq] at hqw
    exact hdistinct r hr q hq (hrw.trans hqw.symm)
  · rw [isUnknown_iff_no_row]
    exact forall₂_congr fun r hr => by rw [takes_eq_mnemonicOf_decodeWord hr]

/-! ### Decoding undoes encoding (R70, R73) -/

theorem isUnknown_iff_eq_unknown (i : Instr) : isUnknown i = true ↔ ∃ w, i = .unknown w := by
  cases i <;> simp [isUnknown]

/-- A word that no row takes decodes to UNKNOWN with that word (R106). -/
theorem decodeWord_of_isUnknownWord {w : Word} (h : isUnknownWord w = true) : decodeWord w = .unknown w := by
  have hrows : ∀ r ∈ opcodeRows, r.takes w = false := by simpa [isUnknownWord] using h
  have hunk : isUnknown (decodeWord w) = true := (opcodeRowsDisjointAndFollowed w).2.2 hrows
  have henc : encode (decodeWord w) = w := (encodeUndoesDecode w).2
  obtain ⟨v, hv⟩ := (isUnknown_iff_eq_unknown _).1 hunk
  rw [hv] at henc ⊢
  exact congrArg Instr.unknown henc

theorem decodeWord_encode {i : Instr} (h : i.wellFormed = true) : decodeWord (encode i) = i := by
  cases i
  case unknown w => exact decodeWord_of_isUnknownWord h
  case cls | ret => rfl
  all_goals simp [encode]

/-- Settles O1: the word by `decodeWord_encode`, and the bytes are read as that word. -/
theorem decodeUndoesEncode : Obligations.DecodeUndoesEncode := by
  unfold Obligations.DecodeUndoesEncode
  intro i hwf
  refine ⟨decodeWord_encode hwf, fun rest => ?_⟩
  rw [encodeBytes, decode_bytesOfWord, decodeWord_encode hwf]

end Sys2Proof

/-! ## Proofs of the family of the engine cycle (40_engine_cycle.md) -/

namespace Sys2Proof.Machine

/-! ### The instruction of a step (R100, R101) -/

/-- The bytes at `PC` decode as the word fetched. -/
theorem decodeWord_fetch_of_decode {s : State} {i : Instr}
    (h : decode [s.memRead s.pc.toNat, s.memRead (s.pc.toNat + 1)] = .ok (i, [])) : decodeWord s.fetch = i :=
  congrArg Prod.fst (Except.ok.inj h)

/-- Settles O6: the instruction completes, and `finish` does the rest of the step. -/
theorem stepRunsDecodedInstruction : Obligations.StepRunsDecodedInstruction := by
  unfold Obligations.StepRunsDecodedInstruction
  intro s i hdec
  obtain ⟨u, hu⟩ := exec_completes i s.clearResult
  exact ⟨u, hu, step_of_decode (decodeWord_fetch_of_decode hdec) hu⟩

/-! ### A step blocked on the keypad (R105, R107, R213) -/

/-- The instruction waits for a key and no key is held. -/
def blocked (i : Instr) (s : State) : Prop :=
  (∃ x, i = .ldVxK x) ∧ ∀ k (h : k < 16), s.key[k] = false

theorem isWaitForKey_iff (i : Instr) : isWaitForKey i = true ↔ ∃ x, i = .ldVxK x := by
  cases i <;> simp [isWaitForKey]

/-- `NextMode` waits exactly when the step is blocked (R105). -/
theorem nextMode_eq_waitingForKey_iff (s : State) (i : Instr) : s.nextMode i = .waitingForKey ↔ blocked i s := by
  simp [State.nextMode, blocked, isWaitForKey_iff, heldKey_eq_none]

/-- No instruction writes the keypad (R29). -/
theorem exec_key {i : Instr} {s u : State} (h : exec i s = .next u) : u.key = s.key :=
  (exec_frame h).2 .keypad fun hmem => keypad_not_mem_stepParts i (List.mem_append_right _ hmem)

/-- Settles O9: `MODE` is computed from the keys after the instruction, which are those before it. -/
theorem waitsExactlyWhenNoKeyHeld : Obligations.WaitsExactlyWhenNoKeyHeld := by
  unfold Obligations.WaitsExactlyWhenNoKeyHeld
  intro s
  obtain ⟨u, hu, hstep⟩ := step_completes s
  have hkey : u.key = s.key := exec_key (s := s.clearResult) hu
  refine ⟨_, hstep, ?_⟩
  rw [finish_mode, nextMode_eq_waitingForKey_iff, blocked, hkey]

/-- A blocked instruction writes nothing. -/
theorem exec_of_blocked {i : Instr} {s : State} (h : blocked i s) : exec i s = .next s := by
  obtain ⟨⟨x, rfl⟩, hkey⟩ := h
  exact execLdVxK_of_none x ((heldKey_eq_none s).2 hkey)

theorem step_of_blocked {s : State} (h : blocked (decodeWord s.fetch) s) :
    step s = .next (s.clearResult.finish (decodeWord s.fetch)) :=
  step_of_exec (exec_of_blocked h)

/-- A blocked step leaves the machine blocked on the same instruction. -/
theorem blocked_finish {s : State} {i : Instr} (h : blocked (decodeWord s.fetch) s) :
    blocked (decodeWord (s.clearResult.finish i).fetch) (s.clearResult.finish i) := h

/-! ### How `PC` moves (R103, R108) -/

theorem advanced_of_pc_eq {s t : State} (h : t.pc = s.pc + 2) : advanced 2 s t := by
  rw [advanced, h, BitVec.toNat_add]; rfl

/-- An instruction that is no jump, call, return or skip, and is not blocked, is of the kind "next". -/
theorem exec_pc_of_next {i : Instr} {s u : State} (hi : isTransfer i = false) (hb : ¬ blocked i s)
    (h : exec i s = .next u) : u.pc = s.pc + 2 := by
  cases i with
  | jp | call | ret | jpV0 | seImm | sneImm | seReg | sneReg | skp | sknp => cases hi
  | ldVxK x =>
    cases hkey : s.heldKey with
    | none => exact absurd ⟨⟨x, rfl⟩, (heldKey_eq_none s).1 hkey⟩ hb
    | some k => cases (execLdVxK_of_some x hkey).symm.trans h; rfl
  | ldBVx | ldMemVx | ldVxMem => cases h; simp
  | _ => cases h; rfl

/-- Settles O10: a blocked instruction answers its own state, and any other that is no transfer is of the kind "next". -/
theorem pcAdvancesByTwo : Obligations.PcAdvancesByTwo := by
  unfold Obligations.PcAdvancesByTwo
  intro s hi
  obtain ⟨u, hu, hstep⟩ := step_completes s
  refine ⟨_, hstep, ?_⟩
  split
  next hb =>
    cases (exec_of_blocked (s := s.clearResult) hb).symm.trans hu
    rfl
  next hb =>
    have hpc : u.pc = s.pc + 2 := exec_pc_of_next (s := s.clearResult) hi hb hu
    exact advanced_of_pc_eq hpc

/-! ### UNKNOWN (R106) -/

/-- Settles O38: UNKNOWN raises its diagnostic, and the tick follows. -/
theorem unknownReportsItsWord : Obligations.UnknownReportsItsWord := by
  unfold Obligations.UnknownReportsItsWord
  intro s w hrows
  have hdec : decodeWord w = .unknown w := decodeWord_of_isUnknownWord (by simpa [isUnknownWord] using hrows)
  refine ⟨hdec, ⟨_, rfl, rfl, advanced_of_pc_eq rfl, frame.refl.raiseDiagnostic⟩, fun hfetch => ?_⟩
  exact ⟨_, step_of_decode ((congrArg decodeWord hfetch).trans hdec) rfl, rfl, advanced_of_pc_eq rfl,
    countDown_toNat s.dt, countDown_toNat s.st⟩

/-! ### A wait of any length (R107, R213, R240, R248) -/

/-- The beep of a tick is of the last count of `ST` (R240). -/
theorem beep_finish_iff (s : State) (i : Instr) : (s.finish i).beep = true ↔ s.st.toNat = 1 := by
  rw [finish_beep, beq_iff_eq, ← BitVec.toNat_inj]; rfl

/-- What every step writes around its instruction (R100). -/
theorem frame_clearResult_finish (s : State) (i : Instr) :
    frame [] [.mode, .beep, .delayTimer, .soundTimer, .result] s (s.clearResult.finish i) :=
  frame.refl.clearResult.finish (by simp)

/-- Settles O49, by induction on the number of steps: each blocked step ticks and leaves the same wait behind. -/
theorem blockedWaitHoldsEverythingButTimers : Obligations.BlockedWaitHoldsEverythingButTimers := by
  unfold Obligations.BlockedWaitHoldsEverythingButTimers
  intro n s x hdec hkey
  have hb : blocked (decodeWord s.fetch) s := ⟨⟨x, hdec⟩, hkey⟩
  clear hdec hkey
  induction n generalizing s with
  | zero =>
    exact ⟨_, run_succ (step_of_blocked hb) 0, rfl, (nextMode_eq_waitingForKey_iff _ _).2 hb, rfl,
      countDown_toNat s.dt, countDown_toNat s.st, beep_finish_iff s.clearResult _, frame_clearResult_finish s _⟩
  | succ n ih =>
    obtain ⟨t, hrun, hpc, hmode, hresult, hdt, hst, hbeep, hframe⟩ :=
      ih (s.clearResult.finish (decodeWord s.fetch)) (blocked_finish hb)
    rw [finish_dt, countDown_toNat, clearResult_dt] at hdt
    rw [finish_st, countDown_toNat, clearResult_st] at hst hbeep
    refine ⟨t, (run_succ (step_of_blocked hb) _).trans hrun, hpc, hmode, hresult, ?_, ?_, ?_,
      (frame_clearResult_finish s _).trans hframe⟩
    · omega
    · omega
    · rw [hbeep]; omega

/-! ### What a step does not read (R30, R31, D13) -/

/-- The state under another `MODE` and `BEEP`. -/
def State.withModeBeep (s : State) (m : EngineMode) (b : Bool) : State := { s with mode := m, beep := b }

/-- The scan reads the keypad alone (R213). -/
theorem heldKey_congr {s t : State} (h : t.key = s.key) : t.heldKey = s.heldKey :=
  Option.ext fun k => by simp only [heldKey_eq_some, h]

/-- The drawing reads `I` and the memory alone (R191). -/
theorem drawRows_congr {s t : State} (hi : t.i = s.i) (hm : t.mem = s.mem) (x0 y0 count : Nat) (c : Canvas) :
    t.drawRows x0 y0 count c = s.drawRows x0 y0 count c := by
  induction count with
  | zero => rfl
  | succ n ih => simp only [State.drawRows, ih, State.memRead, State.dataAddress, hi, hm]

section ModeBeep

variable (s : State) (m : EngineMode) (b : Bool)

theorem storeBytes_withModeBeep (base : Nat) (bs : List Byte) :
    (s.withModeBeep m b).storeBytes base bs = (s.storeBytes base bs).withModeBeep m b := by
  induction bs generalizing s base with
  | nil => rfl
  | cons c rest ih => exact ih (s.memWrite base c) (base + 1)

theorem loadRegs_withModeBeep (base count : Nat) :
    (s.withModeBeep m b).loadRegs base count = (s.loadRegs base count).withModeBeep m b := by
  induction count with
  | zero => rfl
  | succ n ih => simp only [State.loadRegs, ih]; rfl

/-- `finish` overwrites both. -/
theorem finish_withModeBeep (i : Instr) : (s.withModeBeep m b).finish i = s.finish i := by
  have hkey : (s.withModeBeep m b).heldKey = s.heldKey := heldKey_congr rfl
  simp only [State.finish, State.nextMode, hkey]; rfl

/-- No instruction reads or writes `MODE` or `BEEP`. -/
theorem exec_withModeBeep {s u : State} {i : Instr} (h : exec i s = .next u) :
    exec i (s.withModeBeep m b) = .next (u.withModeBeep m b) := by
  cases i with
  | ret =>
    by_cases used : 0 < s.sp.val
    · cases (execRet_of_used used).symm.trans h
      exact execRet_of_used (s := s.withModeBeep m b) used
    · cases (execRet_of_empty used).symm.trans h
      exact execRet_of_empty (s := s.withModeBeep m b) used
  | call nnn =>
    by_cases free : s.sp.val < 16
    · cases (execCall_of_free nnn free).symm.trans h
      exact execCall_of_free (s := s.withModeBeep m b) nnn free
    · cases (execCall_of_full nnn free).symm.trans h
      exact execCall_of_full (s := s.withModeBeep m b) nnn free
  | ldVxK x =>
    have hsame : (s.withModeBeep m b).heldKey = s.heldKey := heldKey_congr rfl
    cases hkey : s.heldKey with
    | none =>
      cases (execLdVxK_of_none x hkey).symm.trans h
      exact execLdVxK_of_none x (hsame.trans hkey)
    | some k =>
      cases (execLdVxK_of_some x hkey).symm.trans h
      exact execLdVxK_of_some x (hsame.trans hkey)
  | ldBVx | ldMemVx => cases h; simp only [exec, execLdBVx, execLdMemVx, storeBytes_withModeBeep]; rfl
  | ldVxMem => cases h; simp only [exec, execLdVxMem, loadRegs_withModeBeep]; rfl
  | drw =>
    cases h
    simp only [exec, execDrw, drawRows_congr (s := s) (t := s.withModeBeep m b) rfl rfl]; rfl
  | _ => cases h; rfl

end ModeBeep

/-- Settles O47: the last result is cleared before the instruction, and `MODE` and `BEEP` pass through the instruction to
`finish`, which overwrites them. -/
theorem stepReadsNoModeBeepOrResult : Obligations.StepReadsNoModeBeepOrResult := by
  unfold Obligations.StepReadsNoModeBeepOrResult
  intro s m b r
  obtain ⟨u, hu, hstep⟩ := step_completes s
  have hstep' := step_of_exec (s := { s with mode := m, beep := b, result := r }) (exec_withModeBeep m b hu)
  rw [finish_withModeBeep] at hstep'
  exact ⟨_, hstep, hstep'⟩

end Sys2Proof.Machine

/-! ## Proofs of the family of control transfer (41_control_flow.md) -/

namespace Sys2Proof.Machine

/-! ### Jumps (R121, R127) -/

theorem zextAddr_toNat (nnn : Addr) : (zextAddr nnn).toNat = nnn.toNat :=
  BitVec.toNat_setWidth_of_le (by decide)

theorem zextByte_toNat (b : Byte) : (zextByte b).toNat = b.toNat :=
  BitVec.toNat_setWidth_of_le (by decide)

/-- A byte and an address operand sum to at most 0x10FE, so 16 bits hold the sum (R127). -/
theorem zextByte_add_zextAddr_toNat (b : Byte) (nnn : Addr) :
    (zextByte b + zextAddr nnn).toNat = b.toNat + nnn.toNat := by
  have := b.isLt
  have := nnn.isLt
  rw [BitVec.toNat_add, zextByte_toNat, zextAddr_toNat]
  exact Nat.mod_eq_of_lt (by omega)

/-- Settles O12: the operand is zero-extended into `PC`. -/
theorem jumpSetsPc : Obligations.JumpSetsPc := by
  unfold Obligations.JumpSetsPc
  intro s nnn
  exact ⟨decodeWord_family1 nnn, _, rfl, zextAddr_toNat nnn, frame.refl.jumpTo⟩

/-- Settles O13: the sum does not overflow 16 bits. -/
theorem jumpWithOffsetAddsV0 : Obligations.JumpWithOffsetAddsV0 := by
  unfold Obligations.JumpWithOffsetAddsV0
  intro s nnn
  exact ⟨decodeWord_familyB nnn, _, rfl, zextByte_add_zextAddr_toNat (s.reg 0) nnn, frame.refl.jumpTo⟩

/-! ### Skips (R123 to R126) -/

/-- A skip advances `PC` by 4 or by 2, as its condition says. -/
theorem advanced_skipIf (s : State) {c : Bool} {p : Prop} [Decidable p] (h : c = true ↔ p) :
    advanced (if p then 4 else 2) s (s.skipIf c) := by
  rw [advanced, skipIf_pc]
  by_cases hp : p
  · rw [if_pos hp, if_pos (h.2 hp), BitVec.toNat_add]; rfl
  · rw [if_neg hp, if_neg fun hc => hp (h.1 hc), BitVec.toNat_add]; rfl

/-- Equality of bytes, as SE tests it, is equality of the numbers. -/
theorem byte_beq_iff (a b : Byte) : (a == b) = true ↔ a.toNat = b.toNat :=
  beq_iff_eq.trans BitVec.toNat_inj.symm

/-- The same for SNE. -/
theorem byte_bne_iff (a b : Byte) : (a != b) = true ↔ a.toNat ≠ b.toNat :=
  bne_iff_ne.trans BitVec.toNat_ne_iff_ne.symm

/-- Settles O16: the four differ by their condition alone. -/
theorem registerSkips : Obligations.RegisterSkips := by
  unfold Obligations.RegisterSkips
  intro s x y nn
  exact ⟨⟨decodeWord_family3 x nn, _, rfl, advanced_skipIf s (byte_beq_iff _ _), frame.refl.skipIf⟩,
    ⟨decodeWord_family4 x nn, _, rfl, advanced_skipIf s (byte_bne_iff _ _), frame.refl.skipIf⟩,
    ⟨decodeWord_family5 x y 0, _, rfl, advanced_skipIf s (byte_beq_iff _ _), frame.refl.skipIf⟩,
    ⟨decodeWord_family9 x y 0, _, rfl, advanced_skipIf s (byte_bne_iff _ _), frame.refl.skipIf⟩⟩

/-! ### Calls and returns (R120, R122) -/

/-- What is pushed is then the top entry. -/
theorem top_push (s : State) (w : Word) (free : s.sp.val < 16) : (s.push w free).top (Nat.succ_pos s.sp.val) = w :=
  Vector.getElem_set_self ..

/-- Settles O14, by whether an entry is free: with one, the address is pushed; with none, the diagnostic is raised. -/
theorem callPushesOwnAddress : Obligations.CallPushesOwnAddress := by
  unfold Obligations.CallPushesOwnAddress
  intro s nnn
  refine ⟨decodeWord_family2 nnn, fun free => ?_, fun hsp => ?_⟩
  · refine ⟨_, execCall_of_free nnn free, rfl, fun k hk => ?_, zextAddr_toNat nnn, frame.refl.push.jumpTo⟩
    simp only [jumpTo_stack, push_stack, Vector.getElem_set, eq_comm]
  · have full : ¬ s.sp.val < 16 := by omega
    exact ⟨_, execCall_of_full nnn full, rfl, advanced_of_pc_eq rfl, frame.refl.raiseDiagnostic⟩

/-- Settles O15, by whether an entry is in use: with one, the top entry is popped; with none, the diagnostic is
raised. -/
theorem returnPopsAndAddsTwo : Obligations.ReturnPopsAndAddsTwo := by
  unfold Obligations.ReturnPopsAndAddsTwo
  intro s
  refine ⟨rfl, fun k hk hsp => ?_, fun hsp => ?_⟩
  · have used : 0 < s.sp.val := by omega
    have htop : s.top used = s.stack[k] := by simp only [State.top, hsp, Nat.add_sub_cancel]
    have hpop : s.sp.val - 1 = k := by omega
    refine ⟨_, execRet_of_used used, hpop, rfl, ?_, frame.refl.pop.jumpTo⟩
    rw [jumpTo_pc, htop, BitVec.toNat_add]; rfl
  · have empty : ¬ 0 < s.sp.val := by omega
    exact ⟨_, execRet_of_empty empty, rfl, advanced_of_pc_eq rfl, frame.refl.raiseDiagnostic⟩

/-- The state after a CALL step with an entry free: the call's own address is the top entry (R122). -/
def State.afterCall (s : State) (nnn : Addr) (free : s.sp.val < 16) : State :=
  ((s.clearResult.push s.pc free).jumpTo (zextAddr nnn)).finish (.call nnn)

theorem step_of_call {s : State} {nnn : Addr} (hdec : decodeWord s.fetch = .call nnn) (free : s.sp.val < 16) :
    step s = .next (s.afterCall nnn free) :=
  step_of_decode hdec (execCall_of_free (s := s.clearResult) nnn free)

/-- RET, when it stands at the target of the CALL, is the next instruction. -/
theorem decodeWord_fetch_afterCall {s : State} {nnn : Addr} (free : s.sp.val < 16)
    (hhi : s.memRead nnn.toNat = 0x00#8) (hlo : s.memRead (nnn.toNat + 1) = 0xEE#8) :
    decodeWord (s.afterCall nnn free).fetch = .ret := by
  apply decodeWord_fetch_of_decode
  have hpc : (s.afterCall nnn free).pc.toNat = nnn.toNat := zextAddr_toNat nnn
  have hmem (ea : Nat) : (s.afterCall nnn free).memRead ea = s.memRead ea := rfl
  rw [hpc, hmem, hmem, hhi, hlo]; rfl

/-- Settles O51: the return pops what the call pushed, and neither step raises a diagnostic. -/
theorem callThenReturn : Obligations.CallThenReturn := by
  unfold Obligations.CallThenReturn
  intro s nnn free hdec hhi hlo
  have hcall : step s = .next (s.afterCall nnn free) := step_of_call hdec free
  have used : 0 < (s.afterCall nnn free).sp.val := Nat.succ_pos s.sp.val
  have htop : (s.afterCall nnn free).top used = s.pc := top_push s s.pc free
  have hret := step_of_decode (decodeWord_fetch_afterCall free hhi hlo)
    (execRet_of_used (s := (s.afterCall nnn free).clearResult) used)
  refine ⟨_, (run_succ hcall 1).trans (run_succ hret 0), advanced_of_pc_eq ?_, rfl, rfl⟩
  exact congrArg (· + 2) htop

end Sys2Proof.Machine

/-! ## Proofs of the family of arithmetic, logic and random (42_alu.md) -/

namespace Sys2Proof.Machine

/-! ### What the two shapes of an ALU instruction do (R140) -/

theorem reg_setReg_same (s : State) (x : Reg) (b : Byte) : (s.setReg x b).reg x = b :=
  (reg_setReg s x x b).trans (if_pos rfl)

/-- An instruction that writes a result alone: `V[X]` reads as the result, and only it and `PC` change. -/
theorem setReg_advance (s : State) (x : Reg) {result : Byte} {n : Nat} (hn : result.toNat = n) :
    ((s.setReg x result).advance.reg x).toNat = n ∧ advanced 2 s (s.setReg x result).advance ∧
      frame [x] [.pc] s (s.setReg x result).advance :=
  ⟨(congrArg BitVec.toNat (reg_setReg_same s x result)).trans hn, advanced_of_pc_eq rfl, frame.refl.setReg.advance⟩

/-- An instruction that writes the flag and then a result: `V[X]` reads as the result, `VF` as the flag unless it is
the destination (D5), and only these and `PC` change. -/
theorem setFlagThenReg_advance (s : State) (x : Reg) {flag result : Byte} {n f : Nat} (hn : result.toNat = n)
    (hf : flag.toNat = f) :
    ((s.setFlagThenReg x flag result).advance.reg x).toNat = n ∧
      (x ≠ 15 → ((s.setFlagThenReg x flag result).advance.reg 15).toNat = f) ∧
      advanced 2 s (s.setFlagThenReg x flag result).advance ∧
      frame [x, 15] [.pc] s (s.setFlagThenReg x flag result).advance := by
  refine ⟨?_, fun hx => ?_, advanced_of_pc_eq rfl, frame.refl.setFlagThenReg.advance⟩
  · rw [advance_reg, reg_setFlagThenReg, if_pos rfl, hn]
  · rw [advance_reg, reg_setFlagThenReg, if_neg hx, if_pos rfl, hf]

/-! ### The flags as numbers (R147 to R151) -/

theorem flagByte_toNat (c : Bool) : (flagByte c).toNat = c.toNat := by
  cases c <;> rfl

theorem flagByte_decide_toNat (p : Prop) [Decidable p] : (flagByte (decide p)).toNat = if p then 1 else 0 :=
  (flagByte_toNat _).trans (Bool.cond_decide p 1 0)

theorem flagByte_carryOfAdd_toNat (a b : Byte) :
    (flagByte (carryOfAdd a b)).toNat = if a.toNat + b.toNat > 255 then 1 else 0 :=
  flagByte_decide_toNat _

theorem flagByte_noBorrow_toNat (a b : Byte) :
    (flagByte (noBorrow a b)).toNat = if a.toNat ≥ b.toNat then 1 else 0 :=
  flagByte_decide_toNat _

/-- Bit 0 is the remainder of the division by 2. -/
theorem flagByte_bitOutRight_toNat (a : Byte) : (flagByte (bitOutRight a)).toNat = a.toNat % 2 := by
  rw [flagByte_toNat, bitOutRight, BitVec.getLsbD, Nat.toNat_testBit, Nat.pow_zero, Nat.div_one]

/-- Bit 7 is the highest, so it is the quotient of the division by 128. -/
theorem flagByte_bitOutLeft_toNat (a : Byte) : (flagByte (bitOutLeft a)).toNat = a.toNat / 128 := by
  have := a.isLt
  rw [flagByte_toNat, bitOutLeft, BitVec.getLsbD, Nat.toNat_testBit]
  omega

/-! ### The results as numbers -/

theorem byte_sub_toNat (a b : Byte) : (a - b).toNat = (a.toNat + 256 - b.toNat) % 256 := by
  have := b.isLt
  rw [BitVec.toNat_sub]
  omega

theorem byte_shiftRight_one_toNat (a : Byte) : (a >>> 1).toNat = a.toNat / 2 := by
  rw [BitVec.toNat_ushiftRight, Nat.shiftRight_eq_div_pow, Nat.pow_one]

theorem byte_shiftLeft_one_toNat (a : Byte) : (a <<< 1).toNat = a.toNat * 2 % 256 := by
  rw [BitVec.toNat_shiftLeft, Nat.shiftLeft_eq, Nat.pow_one]

/-! ### Instructions that set no flag (R141 to R146) -/

/-- Settles O17: the result is the operand. -/
theorem loadImmediate : Obligations.LoadImmediate := by
  unfold Obligations.LoadImmediate
  intro s x nn
  exact ⟨decodeWord_family6 x nn, _, rfl, reg_setReg_same s x nn, (setReg_advance s x rfl).2⟩

/-- Settles O18: the sum of two bytes is a sum modulo 256. -/
theorem addImmediateSetsNoFlag : Obligations.AddImmediateSetsNoFlag := by
  unfold Obligations.AddImmediateSetsNoFlag
  intro s x nn
  exact ⟨decodeWord_family7 x nn, _, rfl, setReg_advance s x (BitVec.toNat_add _ _)⟩

/-- Settles O19: the four differ by their result alone. -/
theorem copyAndLogic : Obligations.CopyAndLogic := by
  unfold Obligations.CopyAndLogic
  intro s x y
  exact ⟨⟨decodeWord_family8 x y 0, _, rfl, reg_setReg_same s x _, (setReg_advance s x rfl).2⟩,
    ⟨decodeWord_family8 x y 1, _, rfl, setReg_advance s x (BitVec.toNat_or _ _)⟩,
    ⟨decodeWord_family8 x y 2, _, rfl, setReg_advance s x (BitVec.toNat_and _ _)⟩,
    ⟨decodeWord_family8 x y 3, _, rfl, setReg_advance s x (BitVec.toNat_xor _ _)⟩⟩

/-! ### Instructions that set a flag (R147 to R151) -/

/-- Settles O20: the flag is the carry of the sum. -/
theorem addRegistersWithCarry : Obligations.AddRegistersWithCarry := by
  unfold Obligations.AddRegistersWithCarry
  intro s x y
  exact ⟨decodeWord_family8 x y 4, _, rfl,
    setFlagThenReg_advance s x (BitVec.toNat_add _ _) (flagByte_carryOfAdd_toNat _ _)⟩

/-- Settles O21: the flag is not borrow of `V[X] - V[Y]`. -/
theorem subtractWithNoBorrowFlag : Obligations.SubtractWithNoBorrowFlag := by
  unfold Obligations.SubtractWithNoBorrowFlag
  intro s x y
  exact ⟨decodeWord_family8 x y 5, _, rfl,
    setFlagThenReg_advance s x (byte_sub_toNat _ _) (flagByte_noBorrow_toNat _ _)⟩

/-- Settles O22: the flag is not borrow of `V[Y] - V[X]`. -/
theorem subtractReversedWithNoBorrowFlag : Obligations.SubtractReversedWithNoBorrowFlag := by
  unfold Obligations.SubtractReversedWithNoBorrowFlag
  intro s x y
  exact ⟨decodeWord_family8 x y 7, _, rfl,
    setFlagThenReg_advance s x (byte_sub_toNat _ _) (flagByte_noBorrow_toNat _ _)⟩

/-- Settles O23: the flag is the bit shifted out, bit 0 or bit 7 of `V[X]`. -/
theorem shiftsMoveBitIntoFlag : Obligations.ShiftsMoveBitIntoFlag := by
  unfold Obligations.ShiftsMoveBitIntoFlag
  intro s x y
  exact ⟨⟨decodeWord_family8 x y 6, _, rfl,
      setFlagThenReg_advance s x (byte_shiftRight_one_toNat _) (flagByte_bitOutRight_toNat _)⟩,
    ⟨decodeWord_family8 x y 14, _, rfl,
      setFlagThenReg_advance s x (byte_shiftLeft_one_toNat _) (flagByte_bitOutLeft_toNat _)⟩⟩

/-! ### The random byte (R152) -/

/-- Settles O24: whatever the byte of this draw is, AND clears the bits outside NN. -/
theorem randomByteIsMasked : Obligations.RandomByteIsMasked := by
  unfold Obligations.RandomByteIsMasked
  intro s x nn
  have hreg : ((s.setReg x (s.nextRandom &&& nn)).countDraw.advance).reg x = s.nextRandom &&& nn :=
    reg_setReg_same s x _
  refine ⟨decodeWord_familyC x nn, _, rfl, ?_, fun k _ hbit => ?_, rfl, advanced_of_pc_eq rfl,
    frame.refl.setReg.countDraw.advance⟩
  · rw [hreg, BitVec.toNat_and]; rfl
  · rw [hreg, BitVec.getLsbD_and, hbit, Bool.and_false]

end Sys2Proof.Machine

/-! ## Proofs of the family of the index register and memory transfers (43_index_memory.md) -/

namespace Sys2Proof.Machine

/-! ### The index register (R170 to R172) -/

/-- Settles O25: the operand is zero-extended into `I`. -/
theorem loadIndex : Obligations.LoadIndex := by
  unfold Obligations.LoadIndex
  intro s nnn
  exact ⟨decodeWord_familyA nnn, _, rfl, zextAddr_toNat nnn, advanced_of_pc_eq rfl, exec_frame (i := .ldI nnn) rfl⟩

theorem flagByte_indexOverflow_toNat (i : Word) (a : Byte) :
    (flagByte (indexOverflow i a)).toNat = if i.toNat + a.toNat > 0xFFF then 1 else 0 :=
  flagByte_decide_toNat _

/-- A sum of a 16-bit word and a byte is a sum modulo 2^16. -/
theorem add_zextByte_toNat (i : Word) (a : Byte) : (i + zextByte a).toNat = (i.toNat + a.toNat) % 65536 := by
  rw [BitVec.toNat_add, zextByte_toNat]

/-- Settles O26: both sums are of the `V[X]` before the flag is written, X = 15 included. -/
theorem addToIndexFlagsOverflow : Obligations.AddToIndexFlagsOverflow := by
  unfold Obligations.AddToIndexFlagsOverflow
  intro s x
  refine ⟨decodeWord_familyF x 0x1E#8, _, rfl, add_zextByte_toNat s.i (s.reg x), ?_, advanced_of_pc_eq rfl,
    exec_frame (i := .addIVx x) rfl⟩
  rw [advance_reg, setIndex_reg, reg_setReg_same, flagByte_indexOverflow_toNat]

/-- Five times a byte is at most 1275, so 16 bits hold it (R172). -/
theorem glyphAddress_toNat (digit : Byte) : (glyphAddress digit).toNat = digit.toNat * 5 := by
  have := digit.isLt
  have hfive : (5 : Word).toNat = 5 := rfl
  rw [glyphAddress, BitVec.toNat_mul, zextByte_toNat, hfive]
  exact Nat.mod_eq_of_lt (by omega)

/-- Settles O27, by `glyphAddress_toNat`. -/
theorem glyphAddressIsFiveTimesDigit : Obligations.GlyphAddressIsFiveTimesDigit := by
  unfold Obligations.GlyphAddressIsFiveTimesDigit
  intro s x
  exact ⟨decodeWord_familyF x 0x29#8, _, rfl, glyphAddress_toNat (s.reg x), advanced_of_pc_eq rfl,
    exec_frame (i := .ldFVx x) rfl⟩

/-! ### The decimal digits (R173) -/

theorem decimalDigits_length (b : Byte) : (decimalDigits b).length = 3 := rfl

/-- A number below 256 fits a byte, so each digit is stored as it is. -/
theorem byte_ofNat_toNat {n : Nat} (h : n < 256) : (BitVec.ofNat 8 n).toNat = n :=
  (BitVec.toNat_ofNat n 8).trans (Nat.mod_eq_of_lt h)

/-- The k-th of the bytes stored from `I` on reads back at `I + k`. -/
theorem memRead_storeBytes_decimalDigits (s : State) (b : Byte) {k : Nat} (hk : k < (decimalDigits b).length) :
    (s.storeBytes (s.dataAddress 0) (decimalDigits b)).memRead (s.i.toNat + k) = (decimalDigits b)[k] :=
  memRead_storeBytes_in s _ _ (by rw [decimalDigits_length]; decide) hk rfl

/-- Settles O28: the three stored bytes are the digits, each below 10. -/
theorem decimalStore : Obligations.DecimalStore := by
  unfold Obligations.DecimalStore
  intro s x
  have hbyte := (s.reg x).isLt
  have hdigit {k : Nat} (hk : k < 3) := congrArg BitVec.toNat (memRead_storeBytes_decimalDigits s (s.reg x) hk)
  refine ⟨decodeWord_familyF x 0x33#8, _, rfl, ?hundreds, ?tens, ?units, fun ea hea => ?other, advanced_of_pc_eq rfl,
    exec_frame (i := .ldBVx x) rfl⟩
  case hundreds => exact (hdigit (k := 0) (by decide)).trans (byte_ofNat_toNat (by omega))
  case tens => exact (hdigit (k := 1) (by decide)).trans (byte_ofNat_toNat (by omega))
  case units => exact (hdigit (k := 2) (by decide)).trans (byte_ofNat_toNat (by omega))
  case other => exact memRead_storeBytes_out s _ _ hea

/-! ### Register dump and load (R174, R175) -/

/-- Settles O29: the stored bytes are `V[0]` to `V[X]`, one for each address from `I` on. -/
theorem registerDump : Obligations.RegisterDump := by
  unfold Obligations.RegisterDump
  intro s x
  refine ⟨decodeWord_familyF x 0x55#8, _, rfl, fun r hr => memRead_storeBytes_lowRegs s hr rfl, fun ea hea => ?_, ?_,
    advanced_of_pc_eq (congrArg (· + 2) (storeBytes_pc s _ _)), exec_frame (i := .ldMemVx x) rfl⟩
  · rw [← lowRegs_length s x] at hea
    exact memRead_storeBytes_out s _ _ hea
  · rw [advance_i, bumpIndex_i, storeBytes_i]

/-- What LD Vx, [I] leaves in `V[r]`: the byte at `I + r` up to `V[X]`, the old value above. -/
theorem reg_loadRegs_dataAddress (s : State) (x r : Reg) :
    (s.loadRegs (s.dataAddress 0) (x.val + 1)).reg r =
      if r.val ≤ x.val then s.memRead (s.i.toNat + r.val) else s.reg r := by
  simp only [loadRegs_reg s _ x.isLt r, Nat.lt_succ_iff, State.dataAddress, Nat.add_zero]

/-- Settles O30, by `reg_loadRegs_dataAddress`: loading changes neither memory nor the `I` that is then moved. -/
theorem registerLoad : Obligations.RegisterLoad := by
  unfold Obligations.RegisterLoad
  intro s x
  refine ⟨decodeWord_familyF x 0x65#8, _, rfl, reg_loadRegs_dataAddress s x, ?_,
    advanced_of_pc_eq (congrArg (· + 2) (loadRegs_pc s _ _)), exec_frame (i := .ldVxMem x) rfl⟩
  rw [advance_i, bumpIndex_i, loadRegs_i]

/-- Settles O52: the load reads `V[r]` at `I + r`, where the dump stored it. -/
theorem dumpThenLoadRestores : Obligations.DumpThenLoadRestores := by
  unfold Obligations.DumpThenLoadRestores
  intro s u x
  refine ⟨_, rfl, fun hmem hi => ⟨_, rfl, fun r hr => ?_⟩⟩
  have hload : (u.loadRegs (u.dataAddress 0) (x.val + 1)).reg r = u.memRead (s.i.toNat + r.val) := by
    rw [reg_loadRegs_dataAddress, if_pos hr, hi]
  have hdump : u.memRead (s.i.toNat + r.val) = s.reg r := by
    rw [State.memRead, hmem]
    exact memRead_storeBytes_lowRegs s hr rfl
  exact hload.trans hdump

end Sys2Proof.Machine

/-! ## Proofs of the family of the display (44_display.md) -/

namespace Sys2Proof.Machine

/-! ### Clear (R190) -/

/-- Settles O31: the framebuffer of the next state is the constant one. -/
theorem clearDisplay : Obligations.ClearDisplay := by
  unfold Obligations.ClearDisplay
  intro s
  exact ⟨rfl, _, rfl, fun _ hj => Vector.getElem_replicate hj, rfl, advanced_of_pc_eq rfl, exec_frame (i := .cls) rfl⟩

/-! ### Draw (R191): what the state after a DRW reads -/

section Draw

variable {s t : State} {x y : Reg} {n : Fin 16}

theorem cell_of_exec_drw (h : exec (.drw x y n) s = .next t) (cx : Fin 64) (cy : Fin 32) :
    t.cell cx cy = (s.cell cx cy ^^ s.spriteBit (s.reg x).toNat (s.reg y).toNat n.val cx.val cy.val) := by
  cases h
  exact drawRows_cell s _ _ _ _ cx cy

/-- The coordinates are those before `VF` is written, so X = 15 and Y = 15 are no exception. -/
theorem flag_eq_one_of_exec_drw (h : exec (.drw x y n) s = .next t) :
    (t.reg 15).toNat = 1 ↔ ∃ (cx : Fin 64) (cy : Fin 32), s.cell cx cy = true ∧
      s.spriteBit (s.reg x).toNat (s.reg y).toNat n.val cx.val cy.val = true := by
  cases h
  rw [advance_reg, reg_setReg_same, flagByte_toNat, Bool.toNat_eq_one, drawRows_collision,
    or_iff_right Bool.false_ne_true]
  exact exists₂_congr fun _ _ => and_comm

theorem flag_zero_or_one_of_exec_drw (h : exec (.drw x y n) s = .next t) :
    (t.reg 15).toNat = 0 ∨ (t.reg 15).toNat = 1 := by
  cases h
  rw [advance_reg, reg_setReg_same, flagByte_toNat]
  exact Nat.le_one_iff_eq_zero_or_eq_one.1 (Bool.toNat_le _)

theorem reg_of_exec_drw (h : exec (.drw x y n) s = .next t) {r : Reg} (hr : r ≠ 15) : t.reg r = s.reg r :=
  (exec_frame h).1 r (mt List.mem_singleton.1 hr)

/-- The sprite is read from `I` and the memory, which a DRW leaves unchanged. -/
theorem spriteBit_of_exec_drw (h : exec (.drw x y n) s = .next t) (x0 y0 height cx cy : Nat) :
    t.spriteBit x0 y0 height cx cy = s.spriteBit x0 y0 height cx cy := by
  obtain ⟨-, hpart⟩ := exec_frame h
  have hi : t.i = s.i := hpart .index (by simp)
  have hmem : ∀ a, t.memRead a = s.memRead a := hpart .memory (by simp)
  simp only [State.spriteBit, State.dataAddress, hi, hmem]

end Draw

/-- Settles O32: the cells and the flag are those of the pixel loop in closed form. -/
theorem drawXorsClippedSprite : Obligations.DrawXorsClippedSprite := by
  unfold Obligations.DrawXorsClippedSprite
  intro s x y n
  have h : exec (.drw x y n) s = .next _ := rfl
  exact ⟨decodeWord_familyD x y n, _, h, cell_of_exec_drw h, flag_eq_one_of_exec_drw h,
    flag_zero_or_one_of_exec_drw h, rfl, advanced_of_pc_eq rfl, exec_frame h⟩

/-- Settles O33: the second DRW puts the same bits on the same cells, and XOR with one bit twice is the identity. On a
blank screen the cells lit after the first DRW are those under the set bits, so the second collides at each of them. -/
theorem drawTwiceRestores : Obligations.DrawTwiceRestores := by
  unfold Obligations.DrawTwiceRestores
  intro s x y n hx hy
  obtain ⟨t, ht⟩ := exec_completes (.drw x y n) s
  obtain ⟨u, hu⟩ := exec_completes (.drw x y n) t
  have hcell := cell_of_exec_drw hu
  have hflag := flag_eq_one_of_exec_drw hu
  simp only [reg_of_exec_drw ht hx, reg_of_exec_drw ht hy, spriteBit_of_exec_drw ht, cell_of_exec_drw ht] at hcell hflag
  have hrestored : ∀ cx cy, u.cell cx cy = s.cell cx cy := fun cx cy => by
    rw [hcell, Bool.xor_assoc, Bool.xor_self, Bool.xor_false]
  refine ⟨t, u, ht, hu, fb_ext hrestored, fun hblank => ?_⟩
  have hunlit : ∀ cx cy, s.cell cx cy = false := fun _ _ => hblank _ _
  refine ⟨?first, ?second⟩
  case first =>
    refine (flag_zero_or_one_of_exec_drw ht).resolve_right fun hone => ?_
    obtain ⟨cx, cy, hlit, -⟩ := (flag_eq_one_of_exec_drw ht).1 hone
    exact Bool.false_ne_true ((hunlit cx cy).symm.trans hlit)
  case second => simpa only [hunlit, Bool.false_xor, and_self] using hflag

end Sys2Proof.Machine

/-! ## Proofs of the family of the keypad and the timers (45_keypad_timer_io.md) -/

namespace Sys2Proof.Machine

/-! ### Every step keeps the invariant (R213, R233, R240) -/

/-- Memory stays in canonical form: the two stores keep it, and no other instruction writes memory. -/
theorem exec_mem_wf {i : Instr} {s u : State} (hm : s.mem.wf = true) (h : exec i s = .next u) :
    u.mem.wf = true := by
  cases i with
  | ldBVx | ldMemVx => cases h; exact storeBytes_mem_wf hm _ _
  | ldVxMem => cases h; rwa [advance_mem, bumpIndex_mem, loadRegs_mem]
  | ret =>
    by_cases used : 0 < s.sp.val
    · cases (execRet_of_used used).symm.trans h; exact hm
    · cases (execRet_of_empty used).symm.trans h; exact hm
  | call nnn =>
    by_cases free : s.sp.val < 16
    · cases (execCall_of_free nnn free).symm.trans h; exact hm
    · cases (execCall_of_full nnn free).symm.trans h; exact hm
  | ldVxK x =>
    cases hkey : s.heldKey with
    | none => cases (execLdVxK_of_none x hkey).symm.trans h; exact hm
    | some k => cases (execLdVxK_of_some x hkey).symm.trans h; exact hm
  | _ => cases h; exact hm

/-- The tick that beeps leaves `ST` at 0. -/
theorem st_finish_of_beep {s : State} {i : Instr} (h : (s.finish i).beep = true) : (s.finish i).st = 0 := by
  have hone : s.st = 1 := beq_iff_eq.1 h
  rw [finish_st, hone]; rfl

/-- An instruction after which the block waits was blocked, so it left the cleared result alone. -/
theorem result_of_nextMode_waiting {i : Instr} {s u : State} (h : exec i s.clearResult = .next u)
    (hwait : u.nextMode i = .waitingForKey) : u.result = .ok := by
  obtain ⟨hi, hnone⟩ := (nextMode_eq_waitingForKey_iff u i).1 hwait
  rw [exec_key h] at hnone
  cases (exec_of_blocked (s := s.clearResult) ⟨hi, hnone⟩).symm.trans h
  rfl

/-- Settles O42: the instruction keeps memory canonical, the tick writes the beep with `ST`, and a wait comes from a
blocked instruction alone. -/
theorem stepKeepsInvariant : Obligations.StepKeepsInvariant := by
  unfold Obligations.StepKeepsInvariant
  rintro s t ⟨hmem, -, -⟩ hstep
  obtain ⟨u, hu, rfl⟩ := step_inv hstep
  have hwf : u.mem.wf = true := exec_mem_wf (s := s.clearResult) hmem hu
  exact ⟨hwf, st_finish_of_beep, result_of_nextMode_waiting hu⟩

/-! ### Waiting for a key (R213, R248) -/

/-- The scan finds a held key that is not below any given one. -/
theorem exists_heldKey_ge {s : State} {k : Nat} (h : k < 16) (hk : s.key[k] = true) :
    ∃ j, s.heldKey = some j ∧ k ≤ j := by
  cases hkey : s.heldKey with
  | none => exact absurd ((heldKey_eq_none s).1 hkey k h) (by simp [hk])
  | some j =>
    obtain ⟨-, -, habove⟩ := (heldKey_eq_some s j).1 hkey
    refine ⟨j, rfl, Nat.le_of_not_lt fun hlt => ?_⟩
    exact absurd (habove k h hlt) (by simp [hk])

/-- With a key held every instruction leaves the block running (R105). -/
theorem nextMode_of_heldKey {s : State} {j : Nat} (i : Instr) (h : s.heldKey = some j) : s.nextMode i = .running := by
  simp [State.nextMode, h]

/-- Settles O37, by `heldKey_eq_none` and `heldKey_eq_some`. -/
theorem waitForKeyTakesHighestHeld : Obligations.WaitForKeyTakesHighestHeld := by
  unfold Obligations.WaitForKeyTakesHighestHeld
  intro s x
  refine ⟨decodeWord_familyF x 0x0A#8, fun hnone => exec_of_blocked ⟨⟨x, rfl⟩, hnone⟩, fun k h hk habove => ?_⟩
  exact ⟨_, execLdVxK_of_some x ((heldKey_eq_some s k).2 ⟨h, hk, habove⟩),
    setReg_advance s x (byte_ofNat_toNat (by omega))⟩

/-- Settles O50: the step takes the highest held key, so it is not blocked. -/
theorem heldKeyEndsWait : Obligations.HeldKeyEndsWait := by
  unfold Obligations.HeldKeyEndsWait
  intro s x k h hdec hk
  obtain ⟨j, hkey, hkj⟩ := exists_heldKey_ge h hk
  obtain ⟨hj, hheld, -⟩ := (heldKey_eq_some s j).1 hkey
  have hexec := execLdVxK_of_some (s := s.clearResult) x hkey
  obtain ⟨hreg, hpc, -⟩ := setReg_advance s.clearResult x (byte_ofNat_toNat (n := j) (by omega))
  refine ⟨_, step_of_decode hdec hexec, nextMode_of_heldKey _ hkey, hpc, ?_⟩
  rw [finish_reg, hreg]
  exact ⟨hkj, hj, hheld⟩

/-! ### Skips on a key (R210, R211) -/

/-- `Held` said of the latch: an index above 15 is not held (D9). -/
theorem held_eq_true_iff (s : State) (k : Nat) : s.held k = true ↔ ∃ h : k < 16, s.key[k] = true := by
  by_cases h : k < 16
  · rw [State.held, dif_pos h, exists_prop_of_true h]
  · simp [held_of_ge s (Nat.le_of_not_lt h), h]

/-- Settles O34: the two differ by the negation of their condition. -/
theorem keySkips : Obligations.KeySkips := by
  unfold Obligations.KeySkips
  intro s x
  have hheld := held_eq_true_iff s (s.reg x).toNat
  refine ⟨⟨decodeWord_familyE x 0x9E#8, _, rfl, advanced_skipIf s hheld, frame.refl.skipIf⟩,
    ⟨decodeWord_familyE x 0xA1#8, _, rfl, ?_, frame.refl.skipIf⟩⟩
  rw [← ite_not]
  exact advanced_skipIf s (by rw [Bool.not_eq_true', ← Bool.not_eq_true, hheld])

/-! ### The timers (R212, R214, R215) -/

/-- Settles O35: the register is written before the tick, which leaves registers alone. -/
theorem readDelayTimer : Obligations.ReadDelayTimer := by
  unfold Obligations.ReadDelayTimer
  intro s x
  refine ⟨decodeWord_familyF x 0x07#8, ⟨_, rfl, reg_setReg_same s x s.dt, (setReg_advance s x rfl).2⟩, fun hdec => ?_⟩
  exact ⟨_, step_of_decode hdec rfl, reg_setReg_same s.clearResult x s.dt, countDown_toNat s.dt⟩

/-- Settles O36: the tick counts down, and beeps on, the value that the instruction has just written. -/
theorem setTimers : Obligations.SetTimers := by
  unfold Obligations.SetTimers
  intro s x
  refine ⟨⟨decodeWord_familyF x 0x15#8,
      ⟨_, rfl, rfl, advanced_of_pc_eq rfl, exec_frame (i := .ldDTVx x) rfl⟩, fun hdec => ?_⟩,
    ⟨decodeWord_familyF x 0x18#8,
      ⟨_, rfl, rfl, advanced_of_pc_eq rfl, exec_frame (i := .ldSTVx x) rfl⟩, fun hdec => ?_⟩⟩
  · exact ⟨_, step_of_decode hdec rfl, countDown_toNat (s.reg x)⟩
  · exact ⟨_, step_of_decode hdec rfl, countDown_toNat (s.reg x), beep_finish_iff _ _⟩

end Sys2Proof.Machine

/-! ## Proofs of the family of the exceptions and the host (60_exceptions.md) -/

namespace Sys2Proof.Machine

/-! ### No step stops (R230, R231) -/

/-- Settles O7, by `exec_completes` and `step_completes`. -/
theorem everyStepCompletes : Obligations.EveryStepCompletes := by
  unfold Obligations.EveryStepCompletes
  intro s
  obtain ⟨u, -, hstep⟩ := step_completes s
  exact ⟨fun i => exec_completes i s, _, hstep⟩

/-! ### The timers (R240, R242) -/

/-- The value of `DT` that the tick after the instruction counts down. -/
def State.delayFrom (s : State) : Instr → Byte
  | .ldDTVx x => s.reg x
  | _ => s.dt

/-- The value of `ST` that the tick after the instruction counts down. -/
def State.soundFrom (s : State) : Instr → Byte
  | .ldSTVx x => s.reg x
  | _ => s.st

theorem exec_dt {i : Instr} {s u : State} (h : exec i s = .next u) : u.dt = s.delayFrom i := by
  cases i with
  | ldDTVx x => cases h; rfl
  | _ => exact (exec_frame h).2 .delayTimer (by simp)

theorem exec_st {i : Instr} {s u : State} (h : exec i s = .next u) : u.st = s.soundFrom i := by
  cases i with
  | ldSTVx x => cases h; rfl
  | _ => exact (exec_frame h).2 .soundTimer (by simp)

/-- Settles O11: the tick counts down what the instruction left in the timers. -/
theorem timersCountDownEveryStep : Obligations.TimersCountDownEveryStep := by
  unfold Obligations.TimersCountDownEveryStep
  intro s d e hd he
  obtain ⟨u, hu, hstep⟩ := step_completes s
  have hdt : u.dt = d := (exec_dt hu).trans hd.symm
  have hst : u.st = e := (exec_st hu).trans he.symm
  subst hdt hst
  exact ⟨_, hstep, countDown_toNat u.dt, countDown_toNat u.st, beep_finish_iff u _⟩

theorem delayFrom_of_ne {i : Instr} (s : State) (hi : ∀ x, i ≠ .ldDTVx x) : s.delayFrom i = s.dt := by
  cases i with
  | ldDTVx x => exact absurd rfl (hi x)
  | _ => rfl

/-- A step that does not run LD DT,Vx counts the delay timer down. -/
theorem dt_of_step {s t : State} (h : step s = .next t) (hi : ∀ x, decodeWord s.fetch ≠ .ldDTVx x) :
    t.dt.toNat = s.dt.toNat - 1 := by
  obtain ⟨u, hu, rfl⟩ := step_inv h
  rw [finish_dt, countDown_toNat, exec_dt hu, delayFrom_of_ne _ hi, clearResult_dt]

/-- Settles O54, by induction on the number of steps: the first takes one off, and the run goes on from its state. -/
theorem delayTimerCountsSteps : Obligations.DelayTimerCountsSteps := by
  unfold Obligations.DelayTimerCountsSteps
  intro n
  induction n with
  | zero => exact fun s _ => ⟨s, rfl, by simp⟩
  | succ n ih =>
    intro s hno
    obtain ⟨u, -, hstep⟩ := step_completes s
    have hdt := dt_of_step hstep (hno 0 s n.succ_pos rfl)
    obtain ⟨t, hrun, ht⟩ := ih _ fun m w hm hw => hno (m + 1) w (Nat.succ_lt_succ hm) ((run_succ hstep m).trans hw)
    refine ⟨t, (run_succ hstep n).trans hrun, ?_⟩
    rw [ht, hdt, Nat.sub_sub, Nat.add_comm 1 n]

/-! ### Diagnostics (R231 to R233) -/

/-- What a step of the instruction reports (R231, R233). -/
def State.reported (s : State) : Instr → StepResult
  | .unknown w => .diagnostic (.unknownOpcode w)
  | .call nnn => if s.sp.val = 16 then .diagnostic (.stackOverflow (encode (.call nnn))) else .ok
  | .ret => if s.sp.val = 0 then .diagnostic (.stackUnderflow (encode .ret)) else .ok
  | _ => .ok

/-- An instruction raises its diagnostic and does nothing else, or it has none and leaves the result alone (R232). -/
theorem exec_raises_or_keeps_result {i : Instr} {s u : State} (h : exec i s = .next u) :
    (∃ d, s.reported i = .diagnostic d ∧ u = s.raiseDiagnostic d) ∨ (s.reported i = .ok ∧ u.result = s.result) := by
  cases i with
  | unknown w => cases h; exact .inl ⟨_, rfl, rfl⟩
  | call nnn =>
    by_cases free : s.sp.val < 16
    · cases (execCall_of_free nnn free).symm.trans h
      exact .inr ⟨if_neg (by omega), rfl⟩
    · cases (execCall_of_full nnn free).symm.trans h
      exact .inl ⟨_, if_pos (by omega), rfl⟩
  | ret =>
    by_cases used : 0 < s.sp.val
    · cases (execRet_of_used used).symm.trans h
      exact .inr ⟨if_neg (by omega), rfl⟩
    · cases (execRet_of_empty used).symm.trans h
      exact .inl ⟨_, if_pos (by omega), rfl⟩
  | _ => exact .inr ⟨rfl, (exec_frame h).2 .result (by simp)⟩

/-- From a cleared result the instruction leaves what it reports. -/
theorem result_of_exec {i : Instr} {s u : State} (h : exec i s.clearResult = .next u) : u.result = s.reported i := by
  obtain ⟨d, hd, rfl⟩ | ⟨hok, hresult⟩ := exec_raises_or_keeps_result h
  · exact hd.symm
  · exact hresult.trans hok.symm

/-- Settles O39: the diagnostic carries the encoding of the instruction, which is the word fetched (D25). -/
theorem diagnosticsReported : Obligations.DiagnosticsReported := by
  unfold Obligations.DiagnosticsReported
  intro s
  obtain ⟨u, hu, hstep⟩ := step_completes s
  refine ⟨_, hstep, ?_⟩
  have hword : encode (decodeWord s.fetch) = s.fetch := (encodeUndoesDecode s.fetch).2
  rw [finish_result, result_of_exec hu]
  cases hi : decodeWord s.fetch with rw [hi] at hword
  | unknown | call | ret => rw [← hword]; rfl
  | _ => rfl

/-- Settles O40: the instruction did nothing but raise the diagnostic, and the step does not wait, for a wait reports
none. -/
theorem diagnosticsArePrecise : Obligations.DiagnosticsArePrecise := by
  unfold Obligations.DiagnosticsArePrecise
  intro s
  obtain ⟨u, hu, hstep⟩ := step_completes s
  refine ⟨_, hstep, fun hdiag => ?_⟩
  have hrunning : u.nextMode (decodeWord s.fetch) = .running := by
    cases hmode : u.nextMode (decodeWord s.fetch) with
    | running => rfl
    | waitingForKey => exact absurd (result_of_nextMode_waiting hu hmode) hdiag
  obtain ⟨d, -, rfl⟩ | ⟨-, hresult⟩ := exec_raises_or_keeps_result hu
  · exact ⟨advanced_of_pc_eq rfl, countDown_toNat s.dt, countDown_toNat s.st, beep_finish_iff _ _, hrunning,
      frame.refl.clearResult.raiseDiagnostic.finish (by simp)⟩
  · exact absurd hresult hdiag

/-! ### The calls of the host that have cases (R246, R247) -/

theorem perform_step {s t : State} (h : step s = .next t) :
    perform (some s) .step = .next (t, .stepped t.result) := by
  simp only [perform, State.answer, h]

theorem perform_setKey_of_lt (s : State) {k : Nat} (hk : k < 16) (held : Bool) :
    perform (some s) (.setKey k held) = .next (s.setKey ⟨k, hk⟩ held, .none) := dif_pos hk

theorem perform_setKey_of_ge (s : State) {k : Nat} (hk : 16 ≤ k) (held : Bool) :
    perform (some s) (.setKey k held) = .refused (.keyIndexOutOfRange k) := dif_neg (Nat.not_lt.2 hk)

/-! ### The operations of the host keep the invariant (R247, R249, R270 to R273) -/

/-- A load writes memory alone, and keeps it in canonical form. -/
theorem Inv.storeBytes {s : State} (h : Inv s) (base : Nat) (bs : List Byte) : Inv (s.storeBytes base bs) := by
  obtain ⟨hmem, hbeep, hwait⟩ := h
  refine ⟨storeBytes_mem_wf hmem base bs, ?_, ?_⟩
  · rwa [storeBytes_beep, storeBytes_st]
  · rwa [storeBytes_mode, storeBytes_result]

theorem Inv.load {s : State} (h : Inv s) (src : RomSource) : Inv (s.load src) := by
  cases src with
  | unavailable => exact h
  | bytes rom =>
    rw [State.load]
    split
    · exact h
    · exact h.storeBytes _ rom

/-- A latch that is clear says nothing of `ST`. -/
theorem Inv.clearBeep {s : State} (h : Inv s) : Inv s.clearBeep := by
  obtain ⟨hmem, -, hwait⟩ := h
  exact ⟨hmem, fun hbeep => absurd hbeep Bool.false_ne_true, hwait⟩

/-- Settles O43, call by call: `init` gives a reset state, a step keeps the invariant by O42, and of the others
only `load` and `beep_events` write what it speaks of. -/
theorem hostCallsKeepInvariant : Obligations.HostCallsKeepInvariant := by
  unfold Obligations.HostCallsKeepInvariant
  intro s t c r h hcall
  cases c with
  | init => cases hcall; exact resetWith_inv _ _
  | load src => cases hcall; exact h.load src
  | step =>
    obtain ⟨u, -, hstep⟩ := step_completes s
    cases (perform_step hstep).symm.trans hcall
    exact stepKeepsInvariant s _ h hstep
  | setKey k held =>
    by_cases hk : k < 16
    · cases (perform_setKey_of_lt s hk held).symm.trans hcall
      exact h
    · cases (perform_setKey_of_ge s (Nat.le_of_not_lt hk) held).symm.trans hcall
  | beepEvents => cases hcall; exact h.clearBeep
  | framebuffer | isDirty | clearDirty | engineMode => cases hcall; exact h

/-! ### The boundary calls (R34, R241, R245, R246) -/

section Frames

variable {R : List Reg} {P : List Part} {s t : State}

theorem frame.clearDirty (h : frame R P s t) (hp : .dirty ∈ P := by simp) : frame R P s t.clearDirty :=
  h.trans ⟨fun _ _ => rfl, fun p hn => by cases p <;> simp_all [Part.same]⟩

theorem frame.setKey {k : Fin 16} {held : Bool} (h : frame R P s t) (hp : .keypad ∈ P := by simp) :
    frame R P s (t.setKey k held) :=
  h.trans ⟨fun _ _ => rfl, fun p hn => by cases p <;> simp_all [Part.same]⟩

theorem frame.clearBeep (h : frame R P s t) (hp : .beep ∈ P := by simp) : frame R P s t.clearBeep :=
  h.trans ⟨fun _ _ => rfl, fun p hn => by cases p <;> simp_all [Part.same]⟩

end Frames

/-- Settles O59: each call answers the state that its update names, and the frame of that update is the rest. -/
theorem boundaryCalls : Obligations.BoundaryCalls := by
  unfold Obligations.BoundaryCalls
  intro s k b
  refine ⟨rfl, rfl, rfl, ⟨_, rfl, rfl, frame.refl.clearDirty⟩, fun hk => ?_, fun hk => perform_setKey_of_ge s hk b,
    ⟨_, rfl, rfl, frame.refl.clearBeep, rfl⟩⟩
  refine ⟨_, perform_setKey_of_lt s hk b, fun j hj => ?_, frame.refl.setKey⟩
  simp only [setKey_key, Vector.getElem_set, eq_comm]

end Sys2Proof.Machine


/-! ## Proofs of the family of reset and hazards (70_reset_and_hazards.md) -/

namespace Sys2Proof.Machine

/-! ### Loading a program (R271 to R273) -/

theorem perform_load_of_le (s : State) {rom : List Byte} (h : rom.length ≤ Config.maxRomLength) :
    perform (some s) (.load (.bytes rom)) = .next (s.storeBytes Config.programBase rom, .loaded .ok) := by
  simp only [perform, State.answer, State.load, loadResult, if_neg (Nat.not_lt.2 h)]

theorem perform_load_of_gt (s : State) {rom : List Byte} (h : rom.length > Config.maxRomLength) :
    perform (some s) (.load (.bytes rom)) = .next (s, .loaded .romTooLarge) := by
  simp only [perform, State.answer, State.load, loadResult, if_pos h]

/-- Bytes that end below the top of memory do not wrap, so an address below or above them names none of them. -/
theorem not_stored_of_outside {base count a : Nat} (hend : base + count ≤ 4096) (ha : a < 4096)
    (hout : a < base ∨ base + count ≤ a) : ¬ stored base count a := by
  rintro ⟨k, hk, e⟩
  simp only [Config.memorySize] at e
  omega

/-- Settles O55: a sequence of at most 3584 bytes, stored from 0x200 on, ends at the top of memory at the latest. -/
theorem loadCopiesProgram : Obligations.LoadCopiesProgram := by
  unfold Obligations.LoadCopiesProgram
  intro s rom hlen
  have hend : 0x200 + rom.length ≤ 4096 := by omega
  exact ⟨_, perform_load_of_le s hlen,
    fun k hk => memRead_storeBytes_in s _ rom (by omega) hk rfl,
    fun a ha hout => memRead_storeBytes_out s _ rom (not_stored_of_outside hend ha hout),
    frame.refl.storeBytes⟩

/-- Settles O56: neither case of `load` stores a byte. -/
theorem failedLoadChangesNothing : Obligations.FailedLoadChangesNothing := by
  unfold Obligations.FailedLoadChangesNothing
  exact fun s _ => ⟨perform_load_of_gt s, rfl⟩

/-! ### Initialization (R270, R274, R275) -/

/-- Settles O57: `initialize` answers a reset state, and the bytes of one are known for every glyph table. -/
theorem initializeResetsEverything : Obligations.InitializeResetsEverything := by
  unfold Obligations.InitializeResetsEverything
  exact fun s => ⟨s.reinitialize, rfl, rfl, rfl, fun _ ha => resetWith_memRead_glyph _ _ ha,
    fun _ ha hb => resetWith_memRead_zero _ _ ha hb⟩

/-- Settles O58, call by call. -/
theorem nothingBeforeInitialize : Obligations.NothingBeforeInitialize := by
  unfold Obligations.NothingBeforeInitialize
  refine ⟨rfl, fun c hc => ?_⟩
  cases c with
  | init => exact absurd rfl hc
  | load | step | framebuffer | isDirty | clearDirty | setKey | beepEvents | engineMode => rfl

end Sys2Proof.Machine

/-! ## Proofs of the other statements -/

namespace Sys2Proof

/-! ### Sample words and short sequences (95_test_vectors.md, R70, R73) -/

/-- Decoding, told by the encoder: the word of an instruction decodes to it. -/
theorem decodeWord_eq_of_encode_eq {i : Instr} {w : Word} (hwf : i.wellFormed = true) (hw : encode i = w) :
    decodeWord w = i :=
  hw ▸ decodeWord_encode hwf

theorem decode_of_length_lt_two {bytes : List Byte} (h : bytes.length < 2) :
    decode bytes = .error .fewerThanTwoBytes := by
  match bytes, h with
  | [], _ | [_], _ => rfl

/-- Settles O5: each word is the encoding of its instruction, 5121 is taken by no row, and the two sequences are shorter
than a word. -/
theorem sampleWordsDecode : Obligations.SampleWordsDecode := by
  unfold Obligations.SampleWordsDecode
  have h5121 : isUnknownWord 0x5121#16 = true := by decide
  exact ⟨decodeWord_eq_of_encode_eq rfl rfl, decodeWord_eq_of_encode_eq rfl rfl, decodeWord_eq_of_encode_eq rfl rfl,
    decodeWord_eq_of_encode_eq rfl rfl, decodeWord_eq_of_encode_eq rfl rfl, decodeWord_eq_of_encode_eq rfl rfl,
    decodeWord_eq_of_encode_eq rfl rfl, decodeWord_of_isUnknownWord h5121,
    decode_of_length_lt_two Nat.two_pos, decode_of_length_lt_two Nat.one_lt_two⟩

end Sys2Proof
